-- ==== Sys2Proof/Word.lean ====
section
/-! DEFINITION. The widths the spec gives its values: bytes, 32-bit channel words, 32-bit addresses, single-bit pin
levels, 4-bit state-register codes, and the ids of host tasks. -/

namespace Sys2Proof

/-- One byte: a shift register (10_state.md R22, R27), a memory byte (20_memory.md R60), a step code (30_encoding.md R80). -/
abbrev Byte := BitVec 8

/-- A channel word, the budget counter and the engines' counters: 32 bits (10_state.md R24, R30, R31). -/
abbrev Word := BitVec 32

/-- A host memory address: ADDR_WIDTH = 32 bits (00_scope.md R6, 20_memory.md R60). -/
abbrev Addr := BitVec 32

/-- The level of a pin: 1 bit (10_state.md R42). -/
abbrev Level := BitVec 1

/-- A state-register code or a bit counter: 4 bits (10_state.md R21, R23, R26, R28, R41). -/
abbrev Nibble := BitVec 4

/-- The id of a host task (10_state.md R47). -/
abbrev TaskId := Nat

end Sys2Proof
end

