-- ==== Sys2Proof/Syntax.lean ====
section
/-! DEFINITION. The steps of the block's agents (one constructor of `Instr` per row of spec/opcode_table.json), the typed
values that are their operands (30_encoding.md R97), and the form in which a step is written before it is decoded: a step
code followed by typed operands (30_encoding.md R80). -/

namespace Sys2Proof

/-- The two sequencers, the operand of the SEQ primitives (30_encoding.md R86). -/
inductive Sequencer where
  | rx
  | tx
  deriving DecidableEq, Repr, Inhabited

/-- The three channels (10_state.md R30), the operand of the CH primitives (30_encoding.md R86). -/
inductive Channel where
  | rxin
  | rxout
  | txin
  deriving DecidableEq, Repr, Inhabited

/-- How an ARM hands its completion on (30_encoding.md R97: BLOCKING = 0, CALLBACK = 1, AWAIT = 2). -/
inductive ArmMode where
  | blocking
  | callback
  | await
  deriving DecidableEq, Repr, Inhabited

/-- The handler kind asked for at construction (30_encoding.md R97). -/
inductive IrqMode where
  | soft
  | hard
  deriving DecidableEq, Repr, Inhabited

/-- The pin identities of CONSTRUCT: sck, mosi, cs, and miso or NONE (30_encoding.md R97). -/
structure PinIds where
  sck  : Nat
  mosi : Nat
  cs   : Nat
  miso : Option Nat
  deriving DecidableEq, Repr, Inhabited

/-- One typed operand of a step (30_encoding.md R97). Addresses, lengths, levels, modes, ids, words and counts are
written as `nat`; `absent` is NONE. -/
inductive Operand where
  | nat    (n : Nat)
  | int    (i : Int)
  | absent
  | seqr   (q : Sequencer)
  | chan   (c : Channel)
  | bytes  (bs : List Byte)
  | pins   (p : PinIds)
  | irq    (m : IrqMode)
  deriving DecidableEq, Repr, Inhabited

/-- A step as a trace or a host command stream writes it: its 8-bit code, the task that issues it (for the steps that a
task takes) and its operands (30_encoding.md R80, R97). -/
structure Item where
  task     : TaskId
  code     : Byte
  operands : List Operand
  deriving DecidableEq, Repr, Inhabited

/-- The steps of the block, one constructor per row of spec/opcode_table.json (30_encoding.md R82 to R89). A step that a
host task takes carries the task's id `t`. -/
inductive Instr where
  -- HOST, 30_encoding.md R82
  | construct (t : TaskId) (cap : Option Nat) (buf : Addr) (index : Nat) (pins : PinIds) (cb : Option Nat) (irq : IrqMode)
  | arm (t : TaskId) (dst : Addr) (b : Word) (mode : ArmMode)
  | write (t : TaskId) (src : Addr) (len : Nat) (repeats : Int)
  | read (t : TaskId)
  | readInto (t : TaskId) (dst : Addr) (len : Nat)
  | asReadInto (t : TaskId) (dst : Addr) (len : Nat)
  | iterStep (t : TaskId)
  | deinit (t : TaskId)
  | outcomeRead (t : TaskId)
  | memRead (t : TaskId) (addr : Addr)
  -- RX, 30_encoding.md R83
  | rxAwaitBudget
  | rxAwaitCsHigh
  | rxAwaitCsLow
  | rxWaitRise
  | rxWaitFall
  | rxByteDone
  | rxOverrunWatch
  | rxReport
  | rxEnd
  -- TX, 30_encoding.md R84
  | txAwaitCsHigh
  | txAwaitCsLow
  | txLoad
  | txWaitRise
  | txWaitFall
  -- RDE and WRE, 30_encoding.md R85
  | rdeXfer
  | rdeConfig (dst : Addr) (count : Word)
  | rdeActivate
  | rdeDeactivate
  | wreXfer
  | wreConfig (data : List Byte) (count : Word)
  | wreActivate
  | wreDeactivate
  -- CTRL, 30_encoding.md R86
  | seqDeactivate (q : Sequencer)
  | seqRestart (q : Sequencer)
  | seqActivate (q : Sequencer)
  | chFlush (c : Channel)
  | chPut (c : Channel) (w : Word)
  | chGet (c : Channel)
  | chEmpty (c : Channel)
  -- EOT, 30_encoding.md R87
  | csdetEdge (old new : Level)
  | eotEntry
  | eotStopEngines
  | eotPlaceholder
  | eotCheck
  | eotAccount
  | eotStopSeq
  | eotSignal
  | eotCallback
  -- SIG, 30_encoding.md R88
  | sigSet
  | sigClear
  | sigWait (t : TaskId)
  | sigResume (t : TaskId)
  | sigPoll (t : TaskId)
  | deferRun
  -- MASTER, 30_encoding.md R89
  | wireCs (v : Level)
  | wireSck (v : Level)
  | wireMosi (v : Level)
  | wireSample
  deriving DecidableEq, Repr, Inhabited

/-- The agent that takes a step: the `agent` field of its code (30_encoding.md R81). -/
inductive Agent where
  | host
  | rx
  | tx
  | rde
  | wre
  | ctrl
  | eot
  | sig
  | master
  deriving DecidableEq, Repr, Inhabited

end Sys2Proof
end

