-- ==== Sys2Proof/WellFormed.lean ====
section
/-! DEFINITION. What a well-formed item is: its operands are as many and of the types that its code takes (30_encoding.md R82 to
R89, R97). The types of `Instr` carry these conditions, so every step of `Instr` is well formed. -/

namespace Sys2Proof

/-- The types of operands (30_encoding.md R97). -/
inductive OperandType where
  /-- A Nat: a length, an index. -/
  | count
  /-- An address, "taken modulo 2^ADDR_WIDTH". -/
  | address
  /-- A 32-bit word: a budget, a count, a channel word. -/
  | word
  /-- A level, 1 bit. -/
  | level
  /-- BLOCKING = 0, CALLBACK = 1 or AWAIT = 2. -/
  | mode
  /-- A signed integer. -/
  | signed
  /-- A Nat or NONE; a callback id or NONE. -/
  | countOrNone
  | sequencer
  | channel
  | byteString
  | pinIds
  | irqMode
  deriving DecidableEq, Repr, Inhabited

/-- The operand is a value of the type. -/
def Operand.fits : OperandType → Operand → Bool
  | .count, .nat _ => true
  | .address, .nat _ => true
  | .word, .nat n => decide (n < 2 ^ 32)
  | .level, .nat n => decide (n < 2)
  | .mode, .nat n => decide (n < 3)
  | .signed, .int _ => true
  | .countOrNone, .nat _ => true
  | .countOrNone, .absent => true
  | .sequencer, .seqr _ => true
  | .channel, .chan _ => true
  | .byteString, .bytes _ => true
  | .pinIds, .pins _ => true
  | .irqMode, .irq _ => true
  | _, _ => false

/-- The operands are values of these types, one each. -/
def operandsFit : List OperandType → List Operand → Bool
  | [], [] => true
  | [], _ :: _ => false
  | _ :: _, [] => false
  | k :: ks, o :: os => o.fits k && operandsFit ks os

/-- The operand types of a code (30_encoding.md R82 to R89, R97). -/
def operandTypes (code : Nat) : List OperandType :=
  match code with
  | 0x01 => [.countOrNone, .address, .count, .pinIds, .countOrNone, .irqMode]
  | 0x02 => [.address, .word, .mode]
  | 0x03 => [.address, .count, .signed]
  | 0x05 => [.address, .count]
  | 0x06 => [.address, .count]
  | 0x0A => [.address]
  | 0x31 => [.address, .word]
  | 0x41 => [.byteString, .word]
  | 0x50 => [.sequencer]
  | 0x51 => [.sequencer]
  | 0x52 => [.sequencer]
  | 0x53 => [.channel]
  | 0x54 => [.channel, .word]
  | 0x55 => [.channel]
  | 0x56 => [.channel]
  | 0x60 => [.level, .level]
  | 0x80 => [.level]
  | 0x81 => [.level]
  | 0x82 => [.level]
  | _ => []

/-- The item's operands are those its code takes; WRITE's `repeats` may be absent (30_encoding.md R97). -/
def Item.wf (it : Item) : Bool :=
  operandsFit (operandTypes it.code.toNat) it.operands ||
    (it.code == 0x03 && operandsFit [.address, .count] it.operands)

end Sys2Proof
end

