-- ==== Sys2Proof/Decode.lean ====
section
/-! DEFINITION. Decoding a step code with its typed operands (30_encoding.md R80 to R90, R97), total on every 8-bit code and
every list of operands, one table per `agent` field; then the encoder, and the host's numbering of a code's bits. -/

namespace Sys2Proof

/-- Why an item is no step. `reservedStep`: its code is one of 30_encoding.md R90's. `badOperands`: its code names a step and
its operands are not values of the types 30_encoding.md R97 gives that step. -/
inductive DecodeError where
  | reservedStep (code : Byte)
  | badOperands (code : Byte)
  deriving DecidableEq, Repr, Inhabited

/-- The reserved step codes, as 30_encoding.md R90 lists them. -/
def reservedCode (c : Byte) : Bool :=
  let n := c.toNat
  decide (0x90 ≤ n) || n == 0x00 || (decide (0x0B ≤ n) && decide (n ≤ 0x0F)) || (decide (0x19 ≤ n) && decide (n ≤ 0x1F)) ||
    (decide (0x25 ≤ n) && decide (n ≤ 0x2F)) || (decide (0x34 ≤ n) && decide (n ≤ 0x3F)) ||
    (decide (0x44 ≤ n) && decide (n ≤ 0x4F)) || (decide (0x57 ≤ n) && decide (n ≤ 0x5F)) ||
    (decide (0x69 ≤ n) && decide (n ≤ 0x6F)) || (decide (0x76 ≤ n) && decide (n ≤ 0x7F)) ||
    (decide (0x84 ≤ n) && decide (n ≤ 0x8F))

/-- An address operand "is taken modulo 2^ADDR_WIDTH" (30_encoding.md R97). -/
def addrOf (n : Nat) : Addr := BitVec.ofNat 32 n

/-- A 32-bit operand: "A budget of 2^32 or more cannot be written" (30_encoding.md R97). -/
def wordOf (n : Nat) : Option Word := if n < 2 ^ 32 then some (BitVec.ofNat 32 n) else none

/-- A level operand, "v (1 bit)" (30_encoding.md R97). -/
def levelOf : Nat → Option Level
  | 0 => some 0
  | 1 => some 1
  | _ + 2 => none

/-- The mode operand of ARM, "BLOCKING = 0, CALLBACK = 1, AWAIT = 2" (30_encoding.md R97). -/
def modeOf : Nat → Option ArmMode
  | 0 => some .blocking
  | 1 => some .callback
  | 2 => some .await
  | _ + 3 => none

/-- The number of a mode (30_encoding.md R97). -/
def modeNumber : ArmMode → Nat
  | .blocking => 0
  | .callback => 1
  | .await => 2

/-- An operand that is "Nat or NONE" or "callback id or NONE" (30_encoding.md R97). -/
def natOrNone : Operand → Option (Option Nat)
  | .nat n => some (some n)
  | .absent => some none
  | .int _ => none
  | .seqr _ => none
  | .chan _ => none
  | .bytes _ => none
  | .pins _ => none
  | .irq _ => none

/-- How "Nat or NONE" is written. -/
def optOperand : Option Nat → Operand
  | some n => .nat n
  | none => .absent

/-- A step without operands. -/
def bare (i : Instr) (ops : List Operand) : Option Instr :=
  match ops with
  | [] => some i
  | _ :: _ => none

/-- The HOST table (30_encoding.md R82) for the `op` field, with the operands of R97. -/
def decodeHost (t : TaskId) (op : Nat) (ops : List Operand) : Option Instr :=
  match op with
  | 0x1 =>
    match ops with
    | [cap, .nat buf, .nat index, .pins p, cb, .irq m] =>
      match natOrNone cap, natOrNone cb with
      | some cap, some cb => some (.construct t cap (addrOf buf) index p cb m)
      | _, _ => none
    | _ => none
  | 0x2 =>
    match ops with
    | [.nat dst, .nat b, .nat m] =>
      match wordOf b, modeOf m with
      | some b, some m => some (.arm t (addrOf dst) b m)
      | _, _ => none
    | _ => none
  | 0x3 =>
    match ops with
    | [.nat src, .nat len, .int repeats] => some (.write t (addrOf src) len repeats)
    | [.nat src, .nat len] => some (.write t (addrOf src) len 1)
    | _ => none
  | 0x4 => bare (.read t) ops
  | 0x5 => match ops with | [.nat dst, .nat len] => some (.readInto t (addrOf dst) len) | _ => none
  | 0x6 => match ops with | [.nat dst, .nat len] => some (.asReadInto t (addrOf dst) len) | _ => none
  | 0x7 => bare (.iterStep t) ops
  | 0x8 => bare (.deinit t) ops
  | 0x9 => bare (.outcomeRead t) ops
  | 0xA => match ops with | [.nat addr] => some (.memRead t (addrOf addr)) | _ => none
  | _ => none

/-- The RX table (30_encoding.md R83). -/
def decodeRx (op : Nat) (ops : List Operand) : Option Instr :=
  match op with
  | 0x0 => bare .rxAwaitBudget ops
  | 0x1 => bare .rxAwaitCsHigh ops
  | 0x2 => bare .rxAwaitCsLow ops
  | 0x3 => bare .rxWaitRise ops
  | 0x4 => bare .rxWaitFall ops
  | 0x5 => bare .rxByteDone ops
  | 0x6 => bare .rxOverrunWatch ops
  | 0x7 => bare .rxReport ops
  | 0x8 => bare .rxEnd ops
  | _ => none

/-- The TX table (30_encoding.md R84). -/
def decodeTx (op : Nat) (ops : List Operand) : Option Instr :=
  match op with
  | 0x0 => bare .txAwaitCsHigh ops
  | 0x1 => bare .txAwaitCsLow ops
  | 0x2 => bare .txLoad ops
  | 0x3 => bare .txWaitRise ops
  | 0x4 => bare .txWaitFall ops
  | _ => none

/-- The RDE table (30_encoding.md R85). -/
def decodeRde (op : Nat) (ops : List Operand) : Option Instr :=
  match op with
  | 0x0 => bare .rdeXfer ops
  | 0x1 => match ops with | [.nat dst, .nat count] => (wordOf count).map (.rdeConfig (addrOf dst)) | _ => none
  | 0x2 => bare .rdeActivate ops
  | 0x3 => bare .rdeDeactivate ops
  | _ => none

/-- The WRE table (30_encoding.md R85). -/
def decodeWre (op : Nat) (ops : List Operand) : Option Instr :=
  match op with
  | 0x0 => bare .wreXfer ops
  | 0x1 => match ops with | [.bytes data, .nat count] => (wordOf count).map (.wreConfig data) | _ => none
  | 0x2 => bare .wreActivate ops
  | 0x3 => bare .wreDeactivate ops
  | _ => none

/-- The CTRL table (30_encoding.md R86). -/
def decodeCtrl (op : Nat) (ops : List Operand) : Option Instr :=
  match op with
  | 0x0 => match ops with | [.seqr q] => some (.seqDeactivate q) | _ => none
  | 0x1 => match ops with | [.seqr q] => some (.seqRestart q) | _ => none
  | 0x2 => match ops with | [.seqr q] => some (.seqActivate q) | _ => none
  | 0x3 => match ops with | [.chan c] => some (.chFlush c) | _ => none
  | 0x4 => match ops with | [.chan c, .nat w] => (wordOf w).map (.chPut c) | _ => none
  | 0x5 => match ops with | [.chan c] => some (.chGet c) | _ => none
  | 0x6 => match ops with | [.chan c] => some (.chEmpty c) | _ => none
  | _ => none

/-- The EOT table (30_encoding.md R87); CSDET.EDGE's operands are the old and new levels of PIN.cs (43_end_of_transfer.md R180). -/
def decodeEot (op : Nat) (ops : List Operand) : Option Instr :=
  match op with
  | 0x0 =>
    match ops with
    | [.nat o, .nat n] =>
      match levelOf o, levelOf n with
      | some o, some n => some (.csdetEdge o n)
      | _, _ => none
    | _ => none
  | 0x1 => bare .eotEntry ops
  | 0x2 => bare .eotStopEngines ops
  | 0x3 => bare .eotPlaceholder ops
  | 0x4 => bare .eotCheck ops
  | 0x5 => bare .eotAccount ops
  | 0x6 => bare .eotStopSeq ops
  | 0x7 => bare .eotSignal ops
  | 0x8 => bare .eotCallback ops
  | _ => none

/-- The SIG table (30_encoding.md R88). -/
def decodeSig (t : TaskId) (op : Nat) (ops : List Operand) : Option Instr :=
  match op with
  | 0x0 => bare .sigSet ops
  | 0x1 => bare .sigClear ops
  | 0x2 => bare (.sigWait t) ops
  | 0x3 => bare (.sigResume t) ops
  | 0x4 => bare (.sigPoll t) ops
  | 0x5 => bare .deferRun ops
  | _ => none

/-- The MASTER table (30_encoding.md R89). -/
def decodeMaster (op : Nat) (ops : List Operand) : Option Instr :=
  match op with
  | 0x0 => match ops with | [.nat v] => (levelOf v).map .wireCs | _ => none
  | 0x1 => match ops with | [.nat v] => (levelOf v).map .wireSck | _ => none
  | 0x2 => match ops with | [.nat v] => (levelOf v).map .wireMosi | _ => none
  | 0x3 => bare .wireSample ops
  | _ => none

/-- The step a code names with these operands, by its `agent` field `code[7:4]` and its `op` field `code[3:0]`
(30_encoding.md R80, R81); none for the agents 0x9 to 0xF. -/
def decodeFields (t : TaskId) (agent op : Nat) (ops : List Operand) : Option Instr :=
  match agent with
  | 0x0 => decodeHost t op ops
  | 0x1 => decodeRx op ops
  | 0x2 => decodeTx op ops
  | 0x3 => decodeRde op ops
  | 0x4 => decodeWre op ops
  | 0x5 => decodeCtrl op ops
  | 0x6 => decodeEot op ops
  | 0x7 => decodeSig t op ops
  | 0x8 => decodeMaster op ops
  | _ => none

/-- Decoding (30_encoding.md R99: "Decoding is total"): a reserved code is refused as such, whatever its operands (R90); a code
that names a step is that step when its operands have the step's types. -/
def decode (it : Item) : Except DecodeError Instr :=
  if reservedCode it.code then .error (.reservedStep it.code)
  else
    match decodeFields it.task (it.code.toNat / 16) (it.code.toNat % 16) it.operands with
    | some i => .ok i
    | none => .error (.badOperands it.code)

/-- A step that is only ever performed as a part of another agent's step, never alone: the primitives that ARM, the handler and
DEINIT perform (30_encoding.md R86, 42_copy_engines.md R150), CSDET.EDGE inside WIRE.CS (43_end_of_transfer.md R180), SIG.SET inside
EOT.SIGNAL and SIG.CLEAR inside ARM (45_completion_signal.md R240, R241). -/
def Instr.isPart : Instr → Bool
  | .rdeConfig _ _ | .rdeActivate | .rdeDeactivate | .wreConfig _ _ | .wreActivate | .wreDeactivate => true
  | .seqDeactivate _ | .seqRestart _ | .seqActivate _ | .chFlush _ | .chPut _ _ | .chGet _ | .chEmpty _ => true
  | .csdetEdge _ _ | .sigSet | .sigClear => true
  | .construct _ _ _ _ _ _ _ | .arm _ _ _ _ | .write _ _ _ _ | .read _ | .readInto _ _ _ | .asReadInto _ _ _ => false
  | .iterStep _ | .deinit _ | .outcomeRead _ | .memRead _ _ | .rxAwaitBudget | .rxAwaitCsHigh | .rxAwaitCsLow => false
  | .rxWaitRise | .rxWaitFall | .rxByteDone | .rxOverrunWatch | .rxReport | .rxEnd => false
  | .txAwaitCsHigh | .txAwaitCsLow | .txLoad | .txWaitRise | .txWaitFall | .rdeXfer | .wreXfer => false
  | .eotEntry | .eotStopEngines | .eotPlaceholder | .eotCheck | .eotAccount | .eotStopSeq | .eotSignal => false
  | .eotCallback | .sigWait _ | .sigResume _ | .sigPoll _ | .deferRun => false
  | .wireCs _ | .wireSck _ | .wireMosi _ | .wireSample => false

/-- The agent that takes a step (30_encoding.md R81 to R89). -/
def Instr.agent : Instr → Agent
  | .construct _ _ _ _ _ _ _ => .host
  | .arm _ _ _ _ => .host
  | .write _ _ _ _ => .host
  | .read _ => .host
  | .readInto _ _ _ => .host
  | .asReadInto _ _ _ => .host
  | .iterStep _ => .host
  | .deinit _ => .host
  | .outcomeRead _ => .host
  | .memRead _ _ => .host
  | .rxAwaitBudget => .rx
  | .rxAwaitCsHigh => .rx
  | .rxAwaitCsLow => .rx
  | .rxWaitRise => .rx
  | .rxWaitFall => .rx
  | .rxByteDone => .rx
  | .rxOverrunWatch => .rx
  | .rxReport => .rx
  | .rxEnd => .rx
  | .txAwaitCsHigh => .tx
  | .txAwaitCsLow => .tx
  | .txLoad => .tx
  | .txWaitRise => .tx
  | .txWaitFall => .tx
  | .rdeXfer => .rde
  | .rdeConfig _ _ => .rde
  | .rdeActivate => .rde
  | .rdeDeactivate => .rde
  | .wreXfer => .wre
  | .wreConfig _ _ => .wre
  | .wreActivate => .wre
  | .wreDeactivate => .wre
  | .seqDeactivate _ => .ctrl
  | .seqRestart _ => .ctrl
  | .seqActivate _ => .ctrl
  | .chFlush _ => .ctrl
  | .chPut _ _ => .ctrl
  | .chGet _ => .ctrl
  | .chEmpty _ => .ctrl
  | .csdetEdge _ _ => .eot
  | .eotEntry => .eot
  | .eotStopEngines => .eot
  | .eotPlaceholder => .eot
  | .eotCheck => .eot
  | .eotAccount => .eot
  | .eotStopSeq => .eot
  | .eotSignal => .eot
  | .eotCallback => .eot
  | .sigSet => .sig
  | .sigClear => .sig
  | .sigWait _ => .sig
  | .sigResume _ => .sig
  | .sigPoll _ => .sig
  | .deferRun => .sig
  | .wireCs _ => .master
  | .wireSck _ => .master
  | .wireMosi _ => .master
  | .wireSample => .master

/-- The value of the `agent` field (30_encoding.md R81). -/
def Agent.field : Agent → Nat
  | .host => 0x0
  | .rx => 0x1
  | .tx => 0x2
  | .rde => 0x3
  | .wre => 0x4
  | .ctrl => 0x5
  | .eot => 0x6
  | .sig => 0x7
  | .master => 0x8

/-- How a step is written (30_encoding.md R80, R82 to R89, R97): its code and its operands, `repeats` always written out; the
task field of a step no task takes is 0. -/
def encode : Instr → Item
  | .construct t cap buf index p cb m =>
    ⟨t, 0x01, [optOperand cap, .nat buf.toNat, .nat index, .pins p, optOperand cb, .irq m]⟩
  | .arm t dst b m => ⟨t, 0x02, [.nat dst.toNat, .nat b.toNat, .nat (modeNumber m)]⟩
  | .write t src len repeats => ⟨t, 0x03, [.nat src.toNat, .nat len, .int repeats]⟩
  | .read t => ⟨t, 0x04, []⟩
  | .readInto t dst len => ⟨t, 0x05, [.nat dst.toNat, .nat len]⟩
  | .asReadInto t dst len => ⟨t, 0x06, [.nat dst.toNat, .nat len]⟩
  | .iterStep t => ⟨t, 0x07, []⟩
  | .deinit t => ⟨t, 0x08, []⟩
  | .outcomeRead t => ⟨t, 0x09, []⟩
  | .memRead t addr => ⟨t, 0x0A, [.nat addr.toNat]⟩
  | .rxAwaitBudget => ⟨0, 0x10, []⟩
  | .rxAwaitCsHigh => ⟨0, 0x11, []⟩
  | .rxAwaitCsLow => ⟨0, 0x12, []⟩
  | .rxWaitRise => ⟨0, 0x13, []⟩
  | .rxWaitFall => ⟨0, 0x14, []⟩
  | .rxByteDone => ⟨0, 0x15, []⟩
  | .rxOverrunWatch => ⟨0, 0x16, []⟩
  | .rxReport => ⟨0, 0x17, []⟩
  | .rxEnd => ⟨0, 0x18, []⟩
  | .txAwaitCsHigh => ⟨0, 0x20, []⟩
  | .txAwaitCsLow => ⟨0, 0x21, []⟩
  | .txLoad => ⟨0, 0x22, []⟩
  | .txWaitRise => ⟨0, 0x23, []⟩
  | .txWaitFall => ⟨0, 0x24, []⟩
  | .rdeXfer => ⟨0, 0x30, []⟩
  | .rdeConfig dst count => ⟨0, 0x31, [.nat dst.toNat, .nat count.toNat]⟩
  | .rdeActivate => ⟨0, 0x32, []⟩
  | .rdeDeactivate => ⟨0, 0x33, []⟩
  | .wreXfer => ⟨0, 0x40, []⟩
  | .wreConfig data count => ⟨0, 0x41, [.bytes data, .nat count.toNat]⟩
  | .wreActivate => ⟨0, 0x42, []⟩
  | .wreDeactivate => ⟨0, 0x43, []⟩
  | .seqDeactivate q => ⟨0, 0x50, [.seqr q]⟩
  | .seqRestart q => ⟨0, 0x51, [.seqr q]⟩
  | .seqActivate q => ⟨0, 0x52, [.seqr q]⟩
  | .chFlush c => ⟨0, 0x53, [.chan c]⟩
  | .chPut c w => ⟨0, 0x54, [.chan c, .nat w.toNat]⟩
  | .chGet c => ⟨0, 0x55, [.chan c]⟩
  | .chEmpty c => ⟨0, 0x56, [.chan c]⟩
  | .csdetEdge o n => ⟨0, 0x60, [.nat o.toNat, .nat n.toNat]⟩
  | .eotEntry => ⟨0, 0x61, []⟩
  | .eotStopEngines => ⟨0, 0x62, []⟩
  | .eotPlaceholder => ⟨0, 0x63, []⟩
  | .eotCheck => ⟨0, 0x64, []⟩
  | .eotAccount => ⟨0, 0x65, []⟩
  | .eotStopSeq => ⟨0, 0x66, []⟩
  | .eotSignal => ⟨0, 0x67, []⟩
  | .eotCallback => ⟨0, 0x68, []⟩
  | .sigSet => ⟨0, 0x70, []⟩
  | .sigClear => ⟨0, 0x71, []⟩
  | .sigWait t => ⟨t, 0x72, []⟩
  | .sigResume t => ⟨t, 0x73, []⟩
  | .sigPoll t => ⟨t, 0x74, []⟩
  | .deferRun => ⟨0, 0x75, []⟩
  | .wireCs v => ⟨0, 0x80, [.nat v.toNat]⟩
  | .wireSck v => ⟨0, 0x81, [.nat v.toNat]⟩
  | .wireMosi v => ⟨0, 0x82, [.nat v.toNat]⟩
  | .wireSample => ⟨0, 0x83, []⟩

/-- The operands of a code with every value zero, NONE, empty or the first of its kind: the host's "operand words of zeros". -/
def zeroOperands (code : Nat) : List Operand :=
  match code with
  | 0x01 => [.absent, .nat 0, .nat 0, .pins ⟨0, 0, 0, none⟩, .absent, .irq .soft]
  | 0x02 => [.nat 0, .nat 0, .nat 0]
  | 0x03 => [.nat 0, .nat 0, .int 0]
  | 0x05 => [.nat 0, .nat 0]
  | 0x06 => [.nat 0, .nat 0]
  | 0x0A => [.nat 0]
  | 0x31 => [.nat 0, .nat 0]
  | 0x41 => [.bytes [], .nat 0]
  | 0x50 => [.seqr .rx]
  | 0x51 => [.seqr .rx]
  | 0x52 => [.seqr .rx]
  | 0x53 => [.chan .rxin]
  | 0x54 => [.chan .rxin, .nat 0]
  | 0x55 => [.chan .rxin]
  | 0x56 => [.chan .rxin]
  | 0x60 => [.nat 0, .nat 0]
  | 0x80 => [.nat 0]
  | 0x81 => [.nat 0]
  | 0x82 => [.nat 0]
  | _ => []

/-- The item whose code is the 8 bits of `w`, with zero operands, issued by task 0. -/
def tableItem (w : Nat) : Item := ⟨0, BitVec.ofNat 8 w, zeroOperands (w % 256)⟩

/-- The instruction the decoder reads from a code numbered as spec/opcode_table.json numbers it: every code is one byte
(30_encoding.md R80), so `nbits` is 8 and bit 0 is the code's least significant bit. -/
def decodeTableWord (nbits w : Nat) : Option Instr :=
  if nbits = 8 ∧ w < 256 then
    match decode (tableItem w) with
    | .ok i => some i
    | .error _ => none
  else none

end Sys2Proof
end

