-- ==== Sys2Proof/Config.lean ====
section
/-! DEFINITION. The fixed parameters of 00_scope.md R6 and the free values: the values and choices the spec leaves open.
A free value has no body, so nothing can be proved of what it is. -/

namespace Sys2Proof

/-- Bits shifted per byte, in each direction (00_scope.md R6). -/
abbrev Config.bitsPerByte : Nibble := 8

/-- FREE VALUE. The byte a host read of the receive region returns inside the race window (20_memory.md R69,
44_facade.md R218: "any byte"), and the byte WRE takes past the end of its data (no rule reaches it). Its argument is the
number of free values drawn before. -/
opaque Config.freeByte : Nat → Byte

/-- FREE VALUE. The level WIRE.SAMPLE returns when no bit is defined (46_wire_master.md R263: "any bit"). -/
opaque Config.freeLevel : Nat → Level

/-- FREE VALUE. The step taken next when no schedule is given: "Any enabled step of any agent may be taken next ... and the
choice is free" (10_state.md R50). -/
opaque Config.freeChoice : Nat → Item

end Sys2Proof
end

