-- ==== Sys2Proof/Machine/Tab.lean ====
section
/-! DEFINITION. Tables from natural-number keys to values in one canonical form: keys strictly rising, and no entry that
holds the value an unlisted key reads as. Host memory (20_memory.md R60) and the tasks (10_state.md R47) are such tables, so
equal tables are equal data. -/

namespace Sys2Proof.Machine

/-- The value at key `k`: the listed one, or `d` where `k` is not listed. -/
def Tab.get {β : Type} (d : β) : List (Nat × β) → Nat → β
  | [], _ => d
  | (k', v') :: m, k => if k = k' then v' else Tab.get d m k

/-- Put `v` in front of a table whose keys are all higher, unless it is the unlisted value. -/
def Tab.cons {β : Type} [DecidableEq β] (d : β) (k : Nat) (v : β) (m : List (Nat × β)) : List (Nat × β) :=
  if v = d then m else (k, v) :: m

/-- The table with `v` at key `k`. -/
def Tab.set {β : Type} [DecidableEq β] (d : β) : List (Nat × β) → Nat → β → List (Nat × β)
  | [], k, v => Tab.cons d k v []
  | (k', v') :: m, k, v =>
    if k < k' then Tab.cons d k v ((k', v') :: m)
    else if k = k' then Tab.cons d k v m
    else (k', v') :: Tab.set d m k v

/-- The canonical form: keys strictly rising, no entry equal to the unlisted value `d`. -/
def Tab.wf {β : Type} [DecidableEq β] (d : β) : List (Nat × β) → Bool
  | [] => true
  | (k, v) :: m => decide (v ≠ d) && m.all (fun e => decide (k < e.1)) && Tab.wf d m

end Sys2Proof.Machine
end

