-- ==== Sys2Proof/Machine/State.lean ====
section
/-! DEFINITION. The state of the block: every element that 10_state.md names, and the model's own fields at the end of
`State`. Plain data; a state is comparable and can be written out. -/

namespace Sys2Proof.Machine

/-- The Input sequencer's registers (10_state.md R21 to R25). -/
structure RxRegs where
  state  : Nibble
  shift  : Byte
  bits   : Nibble
  r      : Word
  active : Bool
  deriving DecidableEq, Repr

/-- The Output sequencer's registers (10_state.md R26 to R29). -/
structure TxRegs where
  state  : Nibble
  shift  : Byte
  bits   : Nibble
  active : Bool
  deriving DecidableEq, Repr

/-- The three channels, oldest word first (10_state.md R30). -/
structure Channels where
  rxin  : List Word
  rxout : List Word
  txin  : List Word
  deriving DecidableEq, Repr

/-- The Read Copy Engine's registers (10_state.md R31). -/
structure RdeRegs where
  active : Bool
  dst    : Addr
  count  : Word
  idx    : Word
  deriving DecidableEq, Repr

/-- The Write Copy Engine's registers (10_state.md R32). -/
structure WreRegs where
  active : Bool
  cfg    : Bool
  data   : List Byte
  count  : Word
  idx    : Word
  deriving DecidableEq, Repr

/-- The transmit stage STG (10_state.md R33). -/
structure Stage where
  present : Bool
  bytes   : List Byte
  reps    : Int
  deriving DecidableEq, Repr

/-- The armed transfer XFER; `b` is none where the spec writes ⊥ (10_state.md R34). -/
structure Xfer where
  b     : Option Word
  dst   : Addr
  cbReq : Bool
  deriving DecidableEq, Repr

/-- The completion signal SIG (10_state.md R36, R37). -/
structure Signal where
  flag   : Bool
  waiter : Option TaskId
  deriving DecidableEq, Repr

/-- The interrupt's enable and its edge latch (10_state.md R39, R40). -/
structure IrqRegs where
  bound   : Bool
  pending : Bool
  deriving DecidableEq, Repr

/-- The pins; `miso` is none where the spec writes UNDRIVEN (10_state.md R42). -/
structure Pins where
  cs   : Level
  sck  : Level
  mosi : Level
  miso : Option Level
  deriving DecidableEq, Repr

/-- The life of the device (10_state.md R43). -/
inductive Life where
  | unbuilt
  | live
  | dead
  deriving DecidableEq, Repr

/-- The construction configuration CFG (10_state.md R44). -/
structure Cfg where
  cap     : Option Nat
  buf     : Addr
  index   : Nat
  pins    : PinIds
  duplex  : Bool
  hasCb   : Bool
  cb      : Option Nat
  irqMode : IrqMode
  deriving DecidableEq, Repr

/-- What FAULT can record (30_encoding.md R96, 60_exceptions.md R302 to R315). -/
inductive FaultCode where
  | notConstructed
  | budgetRange
  | overlapArm
  | secondWaiter
  | repeatsRange
  | noDataOut
  | callbackOverrun
  | outcomeUnwritten
  | countNegative
  | reservedState
  | reservedStep
  | reconstruct
  | useAfterDeinit
  | hardIrq
  deriving DecidableEq, Repr

/-- The two configuration errors (30_encoding.md R96, 60_exceptions.md R316, R317). -/
inductive ErrorCode where
  | noBuffer
  | noCallback
  deriving DecidableEq, Repr

/-- What a host command returns: a byte count, a byte of memory, or a view of the device's buffer (44_facade.md R214, R217 to
R219). -/
inductive Value where
  | count (n : Int)
  | byte  (b : Byte)
  | view  (base : Addr) (n : Nat)
  deriving DecidableEq, Repr

/-- The events of LOG (10_state.md R46). -/
inductive Event where
  | memw     (addr : Addr) (b : Byte)
  | emit     (bit : Level)
  | spurious
  | callback (n : Int)
  | result   (t : TaskId) (v : Value)
  | error    (t : TaskId) (e : ErrorCode)
  deriving DecidableEq, Repr

/-- A command in progress with the operands it was started with (44_facade.md R205); the commands of one phase never stay. -/
inductive Command where
  | arm (dst : Addr) (b : Word) (mode : ArmMode)
  | read
  | readInto (dst : Addr) (len : Nat)
  | asReadInto (dst : Addr) (len : Nat)
  | iterStep
  deriving DecidableEq, Repr

/-- The phases of ARM (42_copy_engines.md R166). -/
inductive ArmPhase where
  | a1
  | a2
  | a3
  | a4
  | a5
  | a6
  | a7
  deriving DecidableEq, Repr

/-- The phase of a command that comes next (44_facade.md R212 to R215): a phase of its ARM, READ's P2, SIG.WAIT, OUTCOME_READ, the
return of the count `n` just read, or READ_INTO's plain return. -/
inductive Phase where
  | arming (k : ArmPhase)
  | spinning
  | waiting
  | outcome
  | returning (n : Int)
  | leaving
  deriving DecidableEq, Repr

/-- TASK[t] (10_state.md R47). A suspended task keeps its command, which SIG.RESUME goes on with (45_completion_signal.md R243);
only READ spins, so SPIN keeps nothing. -/
inductive TaskState where
  | idle
  | busy (c : Command) (p : Phase)
  | suspended (c : Command)
  | spin
  deriving DecidableEq, Repr

/-- The two OPEN parameters, W and FIFO_DEPTH (00_scope.md R6). No step changes them. -/
structure Params where
  w     : Nat
  depth : Nat
  deriving DecidableEq, Repr

/-- The race window of 20_memory.md R69, open from ARM until the arming task observes completion: that task, and whether the
transfer is a callback one (then the window ends with its DEFER.RUN). -/
structure Window where
  task     : TaskId
  callback : Bool
  deriving DecidableEq, Repr

/-- What a step that returns a value, and is no command of a task, returned last: CH.GET a word, CH.EMPTY a truth value,
WIRE.SAMPLE a level (42_copy_engines.md R164, R165, 46_wire_master.md R263). -/
inductive Returned where
  | none
  | word  (w : Word)
  | truth (b : Bool)
  | level (v : Level)
  deriving DecidableEq, Repr

/-- Host memory: address and byte pairs (20_memory.md R60). -/
abbrev Memory := List Host.Cell

/-- What an unlisted address reads as. DESIGN CHOICE (log entry 8): "A host memory byte holds whatever the launch gives it"
(70_reset_and_hazards.md R340); the vectors' launch is 0x00 (95_test_vectors.md). -/
abbrev Memory.unlisted : Byte := 0

/-- The canonical form of memory: addresses strictly rising, each below 2^32, no entry equal to the unlisted byte. -/
def Memory.wf (m : Memory) : Bool := Tab.wf Memory.unlisted m && m.all (fun e => decide (e.1 < 2 ^ 32))

/-- Everything the spec gives the machine, and the model's own fields. -/
structure State where
  /-- RX, 10_state.md R21 to R25. -/
  rx       : RxRegs
  /-- TX, 10_state.md R26 to R29. -/
  tx       : TxRegs
  /-- CH_RXIN, CH_RXOUT, CH_TXIN, 10_state.md R30. -/
  ch       : Channels
  /-- RDE, 10_state.md R31. -/
  rde      : RdeRegs
  /-- WRE, 10_state.md R32. -/
  wre      : WreRegs
  /-- STG, 10_state.md R33. -/
  stg      : Stage
  /-- XFER, 10_state.md R34. -/
  xfer     : Xfer
  /-- OUTCOME, none for ⊥, 10_state.md R35. -/
  outcome  : Option Int
  /-- SIG, 10_state.md R36, R37. -/
  sig      : Signal
  /-- DEFER, none for NONE, 10_state.md R38. -/
  defer    : Option Int
  /-- IRQ, 10_state.md R39, R40. -/
  irq      : IrqRegs
  /-- EOT.phase, 10_state.md R41. -/
  eotPhase : Nibble
  /-- PIN, 10_state.md R42. -/
  pins     : Pins
  /-- LIFE, 10_state.md R43. -/
  life     : Life
  /-- CFG, 10_state.md R44. -/
  cfg      : Cfg
  /-- FAULT, none for NONE, 10_state.md R45. -/
  fault    : Option FaultCode
  /-- LOG, oldest event first, 10_state.md R46. -/
  log      : List Event
  /-- TASK, 10_state.md R47: an unlisted task is IDLE. -/
  tasks    : List (Nat × TaskState)
  /-- HOLDER, 10_state.md R47. -/
  holder   : Option TaskId
  /-- Host memory, 10_state.md R48. -/
  mem      : Memory
  /-- W and FIFO_DEPTH, 00_scope.md R6. -/
  params   : Params
  /-- The model's own: the race window, 20_memory.md R69 (log entry 12). -/
  window   : Option Window
  /-- The model's own: DEFER holds a count scheduled by the transfer armed last (log entry 12). -/
  deferOwn : Bool
  /-- The model's own: the value returned last (log entry 10). -/
  ret      : Returned
  /-- The model's own: the steps still to come, in the order they are taken (log entry 2). -/
  sched    : List Item
  /-- The model's own: how many free values were drawn (log entry 14). -/
  draws    : Nat
  deriving DecidableEq, Repr

/-- Why a step stops the machine. Safe: the machine never goes on where the block would not. -/
inductive Fault where
  /-- Raised by `step` in a state whose FAULT is not NONE: the machine is stopped (00_scope.md R9 "record fault code F and stop
  the machine", 10_state.md R45). Safe. -/
  | stopped (code : FaultCode)
  deriving DecidableEq, Repr

/-- Why an item is given no meaning. -/
inductive Refusal where
  /-- The arm of an instruction without a meaning; no arm of this model has it. Safe. -/
  | notModelled (mnemonic : String)
  /-- Raised by `step` on an item whose code names a step and whose operands are not that step's (30_encoding.md R97): it is
  no step of any agent. Safe. -/
  | badOperands (code : Byte)
  deriving DecidableEq, Repr

/-- RX after CONSTRUCT (10_state.md R52). -/
def RxRegs.built : RxRegs := ⟨0, 0, 0, 0, false⟩

/-- TX after CONSTRUCT (10_state.md R52). -/
def TxRegs.built : TxRegs := ⟨0, 0, 0, false⟩

/-- The channels after CONSTRUCT (10_state.md R52). -/
def Channels.built : Channels := ⟨[], [], []⟩

/-- RDE after CONSTRUCT (10_state.md R52). -/
def RdeRegs.built : RdeRegs := ⟨false, 0, 0, 0⟩

/-- WRE after CONSTRUCT (10_state.md R52). -/
def WreRegs.built : WreRegs := ⟨false, false, [], 0, 0⟩

/-- STG after CONSTRUCT (10_state.md R52). -/
def Stage.built : Stage := ⟨false, [], 0⟩

/-- XFER after CONSTRUCT (10_state.md R52). -/
def Xfer.built : Xfer := ⟨none, 0, false⟩

/-- SIG after CONSTRUCT (10_state.md R52). -/
def Signal.built : Signal := ⟨false, none⟩

/-- CFG before CONSTRUCT: nothing configured. DESIGN CHOICE (log entry 5). -/
def Cfg.unbuilt : Cfg := ⟨none, 0, 0, ⟨0, 0, 0, none⟩, false, false, none, .soft⟩

/-- The machine before CONSTRUCT (70_reset_and_hazards.md R340): LIFE is UNBUILT, FAULT is NONE. Every other element stands at its
value of 10_state.md R52 (log entry 5), the pins at the launch levels of R344 (log entry 7), the parameters at its launch
values (log entry 6); memory lists nothing. -/
def State.reset : State where
  rx       := RxRegs.built
  tx       := TxRegs.built
  ch       := Channels.built
  rde      := RdeRegs.built
  wre      := WreRegs.built
  stg      := Stage.built
  xfer     := Xfer.built
  outcome  := none
  sig      := Signal.built
  defer    := none
  irq      := ⟨false, false⟩
  eotPhase := 0
  pins     := ⟨1, 0, 0, none⟩
  life     := .unbuilt
  cfg      := Cfg.unbuilt
  fault    := none
  log      := []
  tasks    := []
  holder   := none
  mem      := []
  params   := ⟨16, 4⟩
  window   := none
  deferOwn := false
  ret      := .none
  sched    := []
  draws    := 0

end Sys2Proof.Machine
end

