-- ==== Sys2Proof/Machine/Operands.lean ====
section
/-! DEFINITION. The values steps compute with: the state-register codes (30_encoding.md R91 to R93), the channel word formats
(R94), the wire's bit order (R95), the code numbers (R96), the report and its sentinel, the addresses of the copy engines, the
operands of a command's ARM, and CONSTRUCT's configuration. -/

namespace Sys2Proof.Machine

/-! The codes of `RX.state`, 30_encoding.md R91. -/
abbrev rxAwaitBudgetCode : Nibble := 0
abbrev rxAwaitCsHighCode : Nibble := 1
abbrev rxAwaitCsLowCode : Nibble := 2
abbrev rxWaitRiseCode : Nibble := 3
abbrev rxWaitFallCode : Nibble := 4
abbrev rxByteDoneCode : Nibble := 5
abbrev rxOverrunWatchCode : Nibble := 6
abbrev rxReportCode : Nibble := 7

/-! The codes of `TX.state`, 30_encoding.md R92. -/
abbrev txAwaitCsHighCode : Nibble := 0
abbrev txAwaitCsLowCode : Nibble := 1
abbrev txLoadCode : Nibble := 2
abbrev txWaitRiseCode : Nibble := 3
abbrev txWaitFallCode : Nibble := 4

/-- A reserved `RX.state` code, 8 to 15 (30_encoding.md R91). -/
def rxReserved (c : Nibble) : Bool := decide (8 ≤ c.toNat)

/-- A reserved `TX.state` code, 5 to 15 (30_encoding.md R92). -/
def txReserved (c : Nibble) : Bool := decide (5 ≤ c.toNat)

/-- A reserved `EOT.phase` code, 8 to 15 (30_encoding.md R93). -/
def phaseReserved (c : Nibble) : Bool := decide (8 ≤ c.toNat)

/-- `{r[6:0], b}`: shift one bit in at the low end (40_input_shifter.md R104, 41_output_shifter.md R134). -/
def shiftIn (r : Byte) (b : Level) : Byte := r.extractLsb' 0 7 ++ b

/-- `r[7]`, the bit sent next (41_output_shifter.md R134). -/
def topBit (r : Byte) : Level := r.extractLsb' 7 1

/-- `zext_32(byte)`, the data-byte word (30_encoding.md R94). -/
def byteWord (b : Byte) : Word := b.setWidth 32

/-- `w[7:0]`: "A reader of a data-byte word uses bits [7:0] only" (30_encoding.md R94). -/
def wordByte (w : Word) : Byte := w.setWidth 8

/-- `zext_32(R[W-1:0])`, the report word (30_encoding.md R94, 40_input_shifter.md R109). -/
def reportWord (w : Nat) (r : Word) : Word := (r.setWidth w).setWidth 32

/-- SENTINEL, `2^W - 1` (00_scope.md R6), as a 32-bit word. -/
def sentinel (w : Nat) : Word := BitVec.ofNat 32 (2 ^ w - 1)

/-- The greatest budget ARM accepts, `2^W - 2` (00_scope.md R7). -/
def maxBudget (w : Nat) : Nat := 2 ^ w - 2

/-- The count a report `v` stands for under budget `b`: Overflowed or Remaining(v), exact (43_end_of_transfer.md R186). -/
def countOf (w : Nat) (b v : Word) : Int :=
  if v = sentinel w then (b.toNat : Int) else (b.toNat : Int) - (v.toNat : Int)

/-- The address RDE writes, `(RDE.dst + RDE.idx) mod 2^ADDR_WIDTH` (42_copy_engines.md R151). -/
def rdeAddr (r : RdeRegs) : Addr := r.dst + r.idx

/-- The address is in the region `[dst, dst + b)`, modulo 2^32 (20_memory.md R61). -/
def inRegion (dst : Addr) (b : Word) (a : Addr) : Bool := decide ((a - dst).toNat < b.toNat)

/-- The number of bytes WRE is set up to send, `min(B, length(STG.bytes))` (42_copy_engines.md R166, phase A4). -/
def sendCount (b : Nat) (bytes : List Byte) : Word := BitVec.ofNat 32 (min b bytes.length)

/-- The number of a fault code (30_encoding.md R96). -/
def faultNumber : FaultCode → Byte
  | .notConstructed => 0x10
  | .budgetRange => 0x11
  | .overlapArm => 0x12
  | .secondWaiter => 0x13
  | .repeatsRange => 0x14
  | .noDataOut => 0x15
  | .callbackOverrun => 0x16
  | .outcomeUnwritten => 0x17
  | .countNegative => 0x18
  | .reservedState => 0x19
  | .reservedStep => 0x1A
  | .reconstruct => 0x1B
  | .useAfterDeinit => 0x1C
  | .hardIrq => 0x20

/-- The number of an error code (30_encoding.md R96). -/
def errorNumber : ErrorCode → Byte
  | .noBuffer => 0x01
  | .noCallback => 0x02

/-- The `dst` of a command's ARM: its own operand, or CFG.buf for READ and ITER_STEP (44_facade.md R212 to R215). -/
def armDst (cfg : Cfg) : Command → Addr
  | .arm dst _ _ => dst
  | .read => cfg.buf
  | .readInto dst _ => dst
  | .asReadInto dst _ => dst
  | .iterStep => cfg.buf

/-- The budget of a command's ARM, before the range check: B, the buffer's length, or CFG.cap (44_facade.md R212 to R215). -/
def armBudget (cfg : Cfg) : Command → Nat
  | .arm _ b _ => b.toNat
  | .read => cfg.cap.getD 0
  | .readInto _ len => len
  | .asReadInto _ len => len
  | .iterStep => cfg.cap.getD 0

/-- The mode of a command's ARM (44_facade.md R212 to R215). -/
def armMode : Command → ArmMode
  | .arm _ _ mode => mode
  | .read => .blocking
  | .readInto _ _ => .callback
  | .asReadInto _ _ => .await
  | .iterStep => .await

/-- The phase that follows phase A7 of a command's ARM; none where the command then returns (44_facade.md R212 to R215). -/
def afterArm : Command → Option Phase
  | .arm _ _ _ => none
  | .read => some .spinning
  | .readInto _ _ => some .leaving
  | .asReadInto _ _ => some .waiting
  | .iterStep => some .waiting

/-- The configuration CONSTRUCT writes: duplex is `pins.miso != NONE` and has_cb is `cb != NONE` (44_facade.md R210). -/
def cfgOf (cap : Option Nat) (buf : Addr) (index : Nat) (pins : PinIds) (cb : Option Nat) (irq : IrqMode) : Cfg where
  cap     := cap
  buf     := buf
  index   := index
  pins    := pins
  duplex  := pins.miso.isSome
  hasCb   := cb.isSome
  cb      := cb
  irqMode := irq

end Sys2Proof.Machine
end

