-- ==== Sys2Proof/Machine/Ops.lean ====
section
/-! DEFINITION. The named operations over the state: holding, raising a fault, returning from a command, the channels, host
memory and its race window, LOG, the tasks, the control primitives (42_copy_engines.md), interrupt entry and return
(60_exceptions.md R320, R321), the values of CONSTRUCT, and taking the next item of the schedule. -/

namespace Sys2Proof.Machine

/-- The outcome of a step. -/
abbrev Out := Host.Outcome State Fault Refusal

/-- `hold`: the step is not enabled in this state; nothing changes (00_scope.md R9). -/
def hold (s : State) : Out := .next s

/-- `raise Fault(code)`: FAULT takes the code if it is NONE, and no other effect of the step takes place (60_exceptions.md R300).
It is given the state before the step. -/
def raise (code : FaultCode) (s : State) : Out := .next { s with fault := some (s.fault.getD code) }

/-! LOG and the tasks -/

/-- `Log(ev)` (00_scope.md R9). -/
def State.logEvent (s : State) (e : Event) : State := { s with log := s.log ++ [e] }

/-- `TASK[t]` (10_state.md R47). -/
def State.task (s : State) (t : TaskId) : TaskState := Tab.get .idle s.tasks t

/-- `TASK[t] <- x`. -/
def State.setTask (s : State) (t : TaskId) (x : TaskState) : State := { s with tasks := Tab.set .idle s.tasks t x }

/-- Task t holds the scheduler with its command at phase `p` (44_facade.md R205). -/
def State.atPhase (s : State) (t : TaskId) (c : Command) (p : Phase) : State :=
  { s.setTask t (.busy c p) with holder := some t }

/-- A command ends: `TASK[t] <- IDLE` and `HOLDER <- NONE` (44_facade.md R205). -/
def State.endCommand (s : State) (t : TaskId) : State := { s.setTask t .idle with holder := none }

/-- A command returns value `v`: it ends and logs RESULT(t, v) (44_facade.md R205). -/
def State.returnValue (s : State) (t : TaskId) (v : Value) : State := (s.endCommand t).logEvent (.result t v)

/-- `return Error(e)`: the command ends and logs ERROR(t, e); nothing else changes (60_exceptions.md R301). -/
def returnError (t : TaskId) (e : ErrorCode) (s : State) : Out := .next ((s.endCommand t).logEvent (.error t e))

/-! Channels (00_scope.md R9, 10_state.md R30) -/

/-- The words of a channel, oldest first. -/
def State.chan (s : State) : Channel → List Word
  | .rxin => s.ch.rxin
  | .rxout => s.ch.rxout
  | .txin => s.ch.txin

/-- The state with these words in a channel. -/
def State.setChan (s : State) (c : Channel) (ws : List Word) : State :=
  match c with
  | .rxin => { s with ch := { s.ch with rxin := ws } }
  | .rxout => { s with ch := { s.ch with rxout := ws } }
  | .txin => { s with ch := { s.ch with txin := ws } }

/-- `Empty(CH)`. -/
def State.chanEmpty (s : State) (c : Channel) : Bool := (s.chan c).isEmpty

/-- `Full(CH)`: CH has FIFO_DEPTH words. -/
def State.chanFull (s : State) (c : Channel) : Bool := decide (s.params.depth ≤ (s.chan c).length)

/-- `Put(CH, w)`. -/
def State.put (s : State) (c : Channel) (w : Word) : State := s.setChan c (s.chan c ++ [w])

/-- The word `Get(CH)` returns; it is used where CH is not empty. -/
def State.headWord (s : State) (c : Channel) : Word := (s.chan c).headD 0

/-- What `Get(CH)` leaves: the oldest word is gone. -/
def State.pop (s : State) (c : Channel) : State := s.setChan c (s.chan c).tail

/-- `Flush(CH)` (42_copy_engines.md R162). -/
def State.flush (s : State) (c : Channel) : State := s.setChan c []

/-! Host memory (20_memory.md) -/

/-- `MemRead(addr, 1)`. -/
def State.memRead (s : State) (a : Addr) : Byte := Tab.get Memory.unlisted s.mem a.toNat

/-- `MemWrite(addr, 1, b)`. -/
def State.memWrite (s : State) (a : Addr) (b : Byte) : State := { s with mem := Tab.set Memory.unlisted s.mem a.toNat b }

/-- A host read of this address is a race: it is in the receive region, and the arming task has not yet observed completion
(20_memory.md R69). -/
def State.raced (s : State) (a : Addr) : Bool :=
  s.window.isSome &&
    match s.xfer.b with
    | none => false
    | some b => inRegion s.xfer.dst b a

/-- A host's MemRead: a free byte in a race, the byte of memory otherwise (20_memory.md R68, R69, 44_facade.md R218). -/
def State.hostRead (s : State) (a : Addr) : Byte × State :=
  if s.raced a then (Config.freeByte s.draws, { s with draws := s.draws + 1 }) else (s.memRead a, s)

/-- The host's MemReads of `n` bytes from `a` on, addresses modulo 2^32 (44_facade.md R211). -/
def State.hostReadMany : Nat → Addr → State → List Byte × State
  | 0, _, s => ([], s)
  | n + 1, a, s =>
    let first := s.hostRead a
    let rest := State.hostReadMany n (a + 1) first.2
    (first.1 :: rest.1, rest.2)

/-- The race window opens: ARM writes the receive region (20_memory.md R69, 42_copy_engines.md R166 phase A2). A count in DEFER
is from now on an earlier transfer's. -/
def State.openWindow (s : State) (t : TaskId) (callback : Bool) : State :=
  { s with window := some ⟨t, callback⟩, deferOwn := false }

/-- Task t's SIG.RESUME or SIG.POLL consumed the flag: it has observed completion of a transfer it armed in no callback mode
(20_memory.md R69). -/
def State.observe (s : State) (t : TaskId) : State :=
  if s.window = some ⟨t, false⟩ then { s with window := none } else s

/-- DEFER.RUN ran: a callback transfer's completion is observed if the count was its own (20_memory.md R69). -/
def State.observeCallback (s : State) : State :=
  if s.deferOwn && (s.window.map Window.callback == some true) then { s with window := none, deferOwn := false }
  else { s with deferOwn := false }

/-! Control primitives (42_copy_engines.md R152 to R161, 45_completion_signal.md R240, R241). On a device without a data-out pin
TX and WRE do not exist, and a primitive on them does nothing (10_state.md R26, R32; log entry 11). -/

/-- RDE.CONFIG (42_copy_engines.md R152). -/
def State.configRde (s : State) (dst : Addr) (count : Word) : State :=
  { s with rde := { s.rde with dst := dst, count := count, idx := 0 } }

/-- RDE.ACTIVATE (R153). -/
def State.activateRde (s : State) : State := { s with rde := { s.rde with active := true } }

/-- RDE.DEACTIVATE (R154). -/
def State.deactivateRde (s : State) : State := { s with rde := { s.rde with active := false } }

/-- WRE.CONFIG (R156). -/
def State.configWre (s : State) (data : List Byte) (count : Word) : State :=
  if s.cfg.duplex then { s with wre := { s.wre with data := data, count := count, idx := 0, cfg := true } } else s

/-- WRE.ACTIVATE (R157). -/
def State.activateWre (s : State) : State :=
  if s.cfg.duplex then { s with wre := { s.wre with active := true } } else s

/-- WRE.DEACTIVATE (R158). -/
def State.deactivateWre (s : State) : State :=
  if s.cfg.duplex then { s with wre := { s.wre with active := false } } else s

/-- SEQ.DEACTIVATE (R159). -/
def State.deactivateSeq (s : State) : Sequencer → State
  | .rx => { s with rx := { s.rx with active := false } }
  | .tx => if s.cfg.duplex then { s with tx := { s.tx with active := false } } else s

/-- SEQ.RESTART (R160). -/
def State.restartSeq (s : State) : Sequencer → State
  | .rx => { s with rx := { s.rx with state := rxAwaitBudgetCode, shift := 0, bits := 0, r := 0 } }
  | .tx => if s.cfg.duplex then { s with tx := { s.tx with state := txAwaitCsHighCode, shift := 0, bits := 0 } } else s

/-- SEQ.ACTIVATE (R161). -/
def State.activateSeq (s : State) : Sequencer → State
  | .rx => { s with rx := { s.rx with active := true } }
  | .tx => if s.cfg.duplex then { s with tx := { s.tx with active := true } } else s

/-- Both engines and both sequencers stop (42_copy_engines.md R166 phase A1, 44_facade.md R216). -/
def State.stopAll (s : State) : State :=
  ((s.deactivateRde.deactivateWre).deactivateSeq .rx).deactivateSeq .tx

/-- All three channels are flushed (42_copy_engines.md R162, R166 phase A1). -/
def State.flushAll (s : State) : State := ((s.flush .rxin).flush .rxout).flush .txin

/-! The interrupt (60_exceptions.md R318 to R321) -/

/-- Interrupt entry, the only one: IRQ.pending clears and EOT.phase becomes 1, the next step being H1; nothing is saved
(43_end_of_transfer.md R182, 60_exceptions.md R320). -/
def State.enterHandler (s : State) : State := { s with irq := { s.irq with pending := false }, eotPhase := 1 }

/-- Return from the interrupt: EOT.phase becomes 0; there is nothing to restore (60_exceptions.md R321). -/
def State.leaveHandler (s : State) : State := { s with eotPhase := 0 }

/-! Construction -/

/-- Every element of 10_state.md R52 at its value in that table, with this configuration (44_facade.md R210). The pin inputs, host
memory and the parameters are not the device's (70_reset_and_hazards.md R340) and keep their values. -/
def State.built (s : State) (cfg : Cfg) : State where
  rx       := RxRegs.built
  tx       := TxRegs.built
  ch       := Channels.built
  rde      := RdeRegs.built
  wre      := WreRegs.built
  stg      := Stage.built
  xfer     := Xfer.built
  outcome  := none
  sig      := Signal.built
  defer    := none
  irq      := ⟨true, false⟩
  eotPhase := 0
  pins     := { s.pins with miso := none }
  life     := .live
  cfg      := cfg
  fault    := none
  log      := []
  tasks    := []
  holder   := none
  mem      := s.mem
  params   := s.params
  window   := none
  deferOwn := false
  ret      := s.ret
  sched    := s.sched
  draws    := s.draws

/-! The schedule -/

/-- The step taken next and the state without it: the head of the schedule, or a free choice where the schedule is empty
(10_state.md R50; log entry 2). -/
def fetch (s : State) : Item × State :=
  match s.sched with
  | [] => (Config.freeChoice s.draws, { s with draws := s.draws + 1 })
  | it :: rest => (it, { s with sched := rest })

end Sys2Proof.Machine
end

