-- ==== Sys2Proof/Machine/Flags.lean ====
section
/-! DEFINITION. The status bits and the conditions read from them: SIG.flag, IRQ.pending and its edge detector, and the common
enabling conditions of each agent's steps (10_state.md R50, 40_input_shifter.md R100, 41_output_shifter.md R130,
42_copy_engines.md R150, 43_end_of_transfer.md, 44_facade.md R205). -/

namespace Sys2Proof.Machine

/-- SIG.SET (45_completion_signal.md R240). -/
def State.setFlag (s : State) : State := { s with sig := { s.sig with flag := true } }

/-- SIG.CLEAR, and the consumption of the flag by SIG.RESUME and SIG.POLL (45_completion_signal.md R241, R243, R244). -/
def State.clearFlag (s : State) : State := { s with sig := { s.sig with flag := false } }

/-- CSDET.EDGE: a deassertion edge, 0 to 1, latches while the interrupt is bound and the device is live (43_end_of_transfer.md
R180). -/
def State.csEdge (s : State) (old new : Level) : State :=
  if old == 0 && new == 1 && s.irq.bound && s.life == .live && s.fault.isNone then
    { s with irq := { s.irq with pending := true } }
  else s

/-- `LIFE = LIVE` and `FAULT = NONE`. -/
def State.liveAndSound (s : State) : Bool := s.life == .live && s.fault.isNone

/-- The common condition of the RX steps (40_input_shifter.md R100). -/
def State.rxReady (s : State) : Bool := s.liveAndSound && s.rx.active

/-- The common condition of the TX steps (41_output_shifter.md R130). -/
def State.txReady (s : State) : Bool := s.liveAndSound && s.tx.active && s.cfg.duplex

/-- An RX step: not enabled while RX is not ready; F_RESERVED_STATE on a reserved code (40_input_shifter.md R111); else its effect
where its own condition holds, and a hold otherwise. -/
def rxStep (s : State) (enabled : Bool) (after : State) : Out :=
  if !s.rxReady then hold s
  else if rxReserved s.rx.state then raise .reservedState s
  else if enabled then .next after
  else hold s

/-- A TX step, as `rxStep` (41_output_shifter.md R130, R136). -/
def txStep (s : State) (enabled : Bool) (after : State) : Out :=
  if !s.txReady then hold s
  else if txReserved s.tx.state then raise .reservedState s
  else if enabled then .next after
  else hold s

/-- A step of the handler: enabled only when `LIFE = LIVE` and `FAULT = NONE` (43_end_of_transfer.md, "Handler phases");
F_RESERVED_STATE on a reserved phase (30_encoding.md R93). -/
def eotStep (s : State) (enabled : Bool) (out : Out) : Out :=
  if !s.liveAndSound then hold s
  else if phaseReserved s.eotPhase then raise .reservedState s
  else if enabled then out
  else hold s

/-- A control primitive under its own code: its effect, on a live, faultless device. The machine never takes one alone
(`takeStep`; log entry 9). -/
def primStep (s : State) (enabled : Bool) (after : State) : Out :=
  if s.liveAndSound && enabled then .next after else hold s

/-- A step of the master: "always", but for a recorded fault (46_wire_master.md R260, 10_state.md R45, R50). -/
def wireStep (s : State) (after : State) : Out :=
  if s.fault.isNone then .next after else hold s

/-- Host context may run: FAULT is NONE and the handler is idle (10_state.md R50(a), (c)). -/
def State.hostReady (s : State) : Bool := s.fault.isNone && s.eotPhase == 0

/-- Task t may start a command (44_facade.md R205). -/
def State.mayStart (s : State) (t : TaskId) : Bool :=
  s.hostReady && s.holder.isNone && s.task t == .idle

/-- Task t may take the next phase of its command (44_facade.md R205). -/
def State.mayContinue (s : State) (t : TaskId) : Bool := s.hostReady && s.holder == some t

/-- The lifecycle checks every device command makes first (44_facade.md R206, in the order of 60_exceptions.md R319). -/
def State.lifeCheck (s : State) : Option FaultCode :=
  match s.life with
  | .unbuilt => some .notConstructed
  | .dead => some .useAfterDeinit
  | .live => none

end Sys2Proof.Machine
end

