-- ==== Sys2Proof/Machine/Arming.lean ====
section
/-! DEFINITION. Arming, "rinto": the seven phases of ARM, which are phases of every read command too (42_copy_engines.md R166). -/

namespace Sys2Proof.Machine

/-- The fault phase A1 raises, in the order of 60_exceptions.md R319; none where the ARM may go on. -/
def armFault (c : Command) (s : State) : Option FaultCode :=
  match s.lifeCheck with
  | some f => some f
  | none =>
    if s.sig.waiter.isSome then some .overlapArm
    else if armBudget s.cfg c < 1 ∨ maxBudget s.params.w < armBudget s.cfg c then some .budgetRange
    else none

/-- Phase A1: the checks, then every agent stops and every channel is flushed. -/
def armA1 (t : TaskId) (c : Command) (s : State) : Out :=
  match armFault c s with
  | some f => raise f s
  | none =>
    if armMode c = .callback ∧ s.cfg.hasCb = false then returnError t .noCallback s
    else .next (s.stopAll.flushAll.atPhase t c (.arming .a2))

/-- Phase A2: the signal is cleared, the outcome is ⊥, the armed transfer is recorded; the race window opens (20_memory.md R69). -/
def armA2 (t : TaskId) (c : Command) (s : State) : State :=
  ({ s.clearFlag with
      outcome := none
      xfer := ⟨some (BitVec.ofNat 32 (armBudget s.cfg c)), armDst s.cfg c, decide (armMode c = ArmMode.callback)⟩ }).openWindow t
    (decide (armMode c = ArmMode.callback))

/-- Phase A3: the receive copy is set up. -/
def armA3 (c : Command) (s : State) : State :=
  s.configRde (armDst s.cfg c) (BitVec.ofNat 32 (armBudget s.cfg c))

/-- Phase A4: the transmit copy is set up if the stage has something to send, and one repeat is used up. -/
def armA4 (c : Command) (s : State) : State :=
  if s.cfg.duplex && s.stg.present && s.stg.reps != 0 then
    { s.configWre s.stg.bytes (sendCount (armBudget s.cfg c) s.stg.bytes) with
      stg := { s.stg with reps := if 0 < s.stg.reps then s.stg.reps - 1 else s.stg.reps } }
  else { s with wre := { s.wre with cfg := false } }

/-- Phase A5: the copy engines are activated. -/
def armA5 (s : State) : State :=
  if s.wre.cfg then s.activateRde.activateWre else s.activateRde

/-- Phase A6: the sequencers are restarted and activated. -/
def armA6 (s : State) : State :=
  (((s.restartSeq .rx).activateSeq .rx).restartSeq .tx).activateSeq .tx

/-- What task t does after phase A7: its next phase, or the end of the command. -/
def armDone (t : TaskId) (c : Command) (s : State) : State :=
  match afterArm c with
  | some p => s.atPhase t c p
  | none => s.endCommand t

/-- Phase A7: the budget is handed to RX; it holds while CH_RXIN is full. -/
def armA7 (t : TaskId) (c : Command) (s : State) : Out :=
  if s.chanFull .rxin then hold s
  else .next (armDone t c (s.put .rxin (BitVec.ofNat 32 (armBudget s.cfg c))))

/-- One phase of the ARM of task t's command c. -/
def armPhase (t : TaskId) (c : Command) (k : ArmPhase) (s : State) : Out :=
  match k with
  | .a1 => armA1 t c s
  | .a2 => .next ((armA2 t c s).atPhase t c (.arming .a3))
  | .a3 => .next ((armA3 c s).atPhase t c (.arming .a4))
  | .a4 => .next ((armA4 c s).atPhase t c (.arming .a5))
  | .a5 => .next ((armA5 s).atPhase t c (.arming .a6))
  | .a6 => .next ((armA6 s).atPhase t c (.arming .a7))
  | .a7 => armA7 t c s

/-- ARM: an idle task starts it with phase A1; the task that holds the scheduler takes the arming phase its command is at, with
the operands that command was started with (42_copy_engines.md R166, 44_facade.md R205; log entry 3). -/
def execArm (t : TaskId) (dst : Addr) (b : Word) (mode : ArmMode) (s : State) : Out :=
  if s.mayStart t then armPhase t (.arm dst b mode) .a1 s
  else if s.mayContinue t then
    match s.task t with
    | .busy c (.arming k) => armPhase t c k s
    | _ => hold s
  else hold s

end Sys2Proof.Machine
end

