-- ==== Sys2Proof/Machine/Engines.lean ====
section
/-! DEFINITION. The steps of the copy engines and the control primitives (42_copy_engines.md R150 to R165). -/

namespace Sys2Proof.Machine

/-- RDE.XFER may be taken (42_copy_engines.md R150, R151). -/
def State.rdeMayCopy (s : State) : Bool :=
  s.liveAndSound && s.rde.active && decide (s.rde.idx.toNat < s.rde.count.toNat) && !s.chanEmpty .rxout

/-- RDE.XFER: copy one received byte to memory (42_copy_engines.md R151). -/
def execRdeXfer (s : State) : Out :=
  if s.rdeMayCopy then
    .next { (((s.pop .rxout).memWrite (rdeAddr s.rde) (wordByte (s.headWord .rxout))).logEvent
        (.memw (rdeAddr s.rde) (wordByte (s.headWord .rxout)))) with
      rde := { s.rde with idx := s.rde.idx + 1 } }
  else hold s

/-- RDE.CONFIG (42_copy_engines.md R152). -/
def execRdeConfig (dst : Addr) (count : Word) (s : State) : Out := primStep s true (s.configRde dst count)

/-- RDE.ACTIVATE (42_copy_engines.md R153). -/
def execRdeActivate (s : State) : Out := primStep s true s.activateRde

/-- RDE.DEACTIVATE (42_copy_engines.md R154). -/
def execRdeDeactivate (s : State) : Out := primStep s true s.deactivateRde

/-- WRE.XFER may be taken (42_copy_engines.md R150, R155). -/
def State.wreMayFeed (s : State) : Bool :=
  s.liveAndSound && s.cfg.duplex && s.wre.active && decide (s.wre.idx.toNat < s.wre.count.toNat) && !s.chanFull .txin

/-- `WRE.data[WRE.idx]`, and the state with the draw counted; past the end of the data, for which the spec states no byte, a free
byte. DESIGN CHOICE (log entry 20). -/
def State.wreTake (s : State) : Byte × State :=
  match s.wre.data[s.wre.idx.toNat]? with
  | some b => (b, s)
  | none => (Config.freeByte s.draws, { s with draws := s.draws + 1 })

/-- WRE.XFER: feed one byte to the Output sequencer (42_copy_engines.md R155). -/
def execWreXfer (s : State) : Out :=
  if s.wreMayFeed then
    .next { s.wreTake.2.put .txin (byteWord s.wreTake.1) with wre := { s.wre with idx := s.wre.idx + 1 } }
  else hold s

/-- WRE.CONFIG (42_copy_engines.md R156). -/
def execWreConfig (data : List Byte) (count : Word) (s : State) : Out := primStep s true (s.configWre data count)

/-- WRE.ACTIVATE (42_copy_engines.md R157). -/
def execWreActivate (s : State) : Out := primStep s true s.activateWre

/-- WRE.DEACTIVATE (42_copy_engines.md R158). -/
def execWreDeactivate (s : State) : Out := primStep s true s.deactivateWre

/-- SEQ.DEACTIVATE (42_copy_engines.md R159). -/
def execSeqDeactivate (q : Sequencer) (s : State) : Out := primStep s true (s.deactivateSeq q)

/-- SEQ.RESTART (42_copy_engines.md R160). -/
def execSeqRestart (q : Sequencer) (s : State) : Out := primStep s true (s.restartSeq q)

/-- SEQ.ACTIVATE (42_copy_engines.md R161). -/
def execSeqActivate (q : Sequencer) (s : State) : Out := primStep s true (s.activateSeq q)

/-- CH.FLUSH (42_copy_engines.md R162). -/
def execChFlush (c : Channel) (s : State) : Out := primStep s true (s.flush c)

/-- CH.PUT: it holds while the channel is full (42_copy_engines.md R163). -/
def execChPut (c : Channel) (w : Word) (s : State) : Out := primStep s (!s.chanFull c) (s.put c w)

/-- CH.GET: it holds while the channel is empty (42_copy_engines.md R164). -/
def execChGet (c : Channel) (s : State) : Out :=
  primStep s (!s.chanEmpty c) { s.pop c with ret := .word (s.headWord c) }

/-- CH.EMPTY: it returns the test and changes nothing (42_copy_engines.md R165). -/
def execChEmpty (c : Channel) (s : State) : Out := primStep s true { s with ret := .truth (s.chanEmpty c) }

end Sys2Proof.Machine
end

