-- ==== Sys2Proof/Machine/Facade.lean ====
section
/-! DEFINITION. The host commands (44_facade.md). A command's code takes its first phase for an idle task, and the phases of its
own for the task whose command it is; the phases that are steps of their own (ARM, SIG.WAIT, SIG.RESUME, SIG.POLL, OUTCOME_READ)
are taken under those codes (30_encoding.md R98; log entry 3). -/

namespace Sys2Proof.Machine

/-- The start of a command by task t: held unless t may start; the lifecycle checks of 44_facade.md R206 first. -/
def startChecked (t : TaskId) (s : State) (go : Out) : Out :=
  if s.mayStart t then
    match s.lifeCheck with
    | some f => raise f s
    | none => go
  else hold s

/-- CONSTRUCT (44_facade.md R210); checks in the order F_USE_AFTER_DEINIT, F_RECONSTRUCT, REF_HARD_IRQ (60_exceptions.md R319). -/
def execConstruct (t : TaskId) (cap : Option Nat) (buf : Addr) (index : Nat) (pins : PinIds) (cb : Option Nat)
    (irq : IrqMode) (s : State) : Out :=
  if s.mayStart t then
    match s.life with
    | .dead => raise .useAfterDeinit s
    | .live => raise .reconstruct s
    | .unbuilt =>
      match irq with
      | .hard => raise .hardIrq s
      | .soft => .next (s.built (cfgOf cap buf index pins cb irq))
  else hold s

/-- WRITE (44_facade.md R211); checks in the order of 60_exceptions.md R319. -/
def execWrite (t : TaskId) (src : Addr) (len : Nat) (repeats : Int) (s : State) : Out :=
  startChecked t s
    (if s.cfg.duplex = false then raise .noDataOut s
     else if repeats < -1 then raise .repeatsRange s
     else
      .next ({ (s.hostReadMany len src).2 with stg := ⟨true, (s.hostReadMany len src).1, repeats⟩ }.endCommand t))

/-- The return of a view of n bytes of the device's buffer; a negative count faults (44_facade.md R219). -/
def returnView (t : TaskId) (n : Int) (s : State) : Out :=
  if n < 0 then raise .countNegative s else .next (s.returnValue t (.view s.cfg.buf n.toNat))

/-- READ: P0; P2, which spins; P4, which returns the view (44_facade.md R212). -/
def execRead (t : TaskId) (s : State) : Out :=
  if s.mayContinue t then
    match s.task t with
    | .busy .read .spinning => .next (s.setTask t .spin)
    | .busy .read (.returning n) => returnView t n s
    | _ => hold s
  else
    startChecked t s
      (if s.cfg.cap = none then returnError t .noBuffer s else .next (s.atPhase t .read (.arming .a1)))

/-- READ_INTO: P0; P2, which returns at once (44_facade.md R213). -/
def execReadInto (t : TaskId) (dst : Addr) (len : Nat) (s : State) : Out :=
  if s.mayContinue t then
    match s.task t with
    | .busy (.readInto _ _) .leaving => .next (s.endCommand t)
    | _ => hold s
  else
    startChecked t s
      (if s.cfg.hasCb = false then returnError t .noCallback s
       else .next (s.atPhase t (.readInto dst len) (.arming .a1)))

/-- AS_READ_INTO: P0; P5, which returns the count as computed (44_facade.md R214). -/
def execAsReadInto (t : TaskId) (dst : Addr) (len : Nat) (s : State) : Out :=
  if s.mayContinue t then
    match s.task t with
    | .busy (.asReadInto _ _) (.returning n) => .next (s.returnValue t (.count n))
    | _ => hold s
  else startChecked t s (.next (s.atPhase t (.asReadInto dst len) (.arming .a1)))

/-- ITER_STEP: P0; P5, which yields the view (44_facade.md R215). -/
def execIterStep (t : TaskId) (s : State) : Out :=
  if s.mayContinue t then
    match s.task t with
    | .busy .iterStep (.returning n) => returnView t n s
    | _ => hold s
  else
    startChecked t s
      (if s.cfg.cap = none then returnError t .noBuffer s else .next (s.atPhase t .iterStep (.arming .a1)))

/-- DEINIT: tear down; idempotent (44_facade.md R216). -/
def execDeinit (t : TaskId) (s : State) : Out :=
  if s.mayStart t then
    match s.life with
    | .unbuilt => raise .notConstructed s
    | _ => .next ({ s.stopAll with irq := ⟨false, false⟩, life := .dead }.endCommand t)
  else hold s

/-- OUTCOME_READ: a command of its own, and the phase of READ, AS_READ_INTO and ITER_STEP that reads the count (44_facade.md
R217). -/
def execOutcomeRead (t : TaskId) (s : State) : Out :=
  if s.mayContinue t then
    match s.task t with
    | .busy c .outcome =>
      match s.outcome with
      | none => raise .outcomeUnwritten s
      | some n => .next (s.atPhase t c (.returning n))
    | _ => hold s
  else
    startChecked t s
      (match s.outcome with
        | none => raise .outcomeUnwritten s
        | some n => .next (s.returnValue t (.count n)))

/-- MEM_READ: allowed in every LIFE state; any byte in a race (44_facade.md R218). -/
def execMemRead (t : TaskId) (addr : Addr) (s : State) : Out :=
  if s.mayStart t then .next ((s.hostRead addr).2.returnValue t (.byte (s.hostRead addr).1)) else hold s

end Sys2Proof.Machine
end

