-- ==== Sys2Proof/Machine/Handler.lean ====
section
/-! DEFINITION. The chip-select edge detector and the End-of-Transfer handler (43_end_of_transfer.md). -/

namespace Sys2Proof.Machine

/-- CSDET.EDGE with the old and new levels of PIN.cs (43_end_of_transfer.md R180). -/
def execCsdetEdge (old new : Level) (s : State) : Out := .next (s.csEdge old new)

/-- EOT.ENTRY: take the pending interrupt (43_end_of_transfer.md R182, 60_exceptions.md R320). -/
def execEotEntry (s : State) : Out :=
  eotStep s (s.irq.bound && s.irq.pending && s.eotPhase == 0) (.next s.enterHandler)

/-- EOT.STOP_ENGINES, H1 (43_end_of_transfer.md R183). -/
def execEotStopEngines (s : State) : Out :=
  eotStep s (s.eotPhase == 1) (.next { s.deactivateRde.deactivateWre with eotPhase := 2 })

/-- EOT.PLACEHOLDER, H2 (43_end_of_transfer.md R184). -/
def execEotPlaceholder (s : State) : Out :=
  eotStep s (s.eotPhase == 2 && !s.chanFull .rxin) (.next { s.put .rxin 0 with eotPhase := 3 })

/-- EOT.CHECK, H3: no word in CH_RXOUT is the spurious path, which returns (43_end_of_transfer.md R185). -/
def execEotCheck (s : State) : Out :=
  eotStep s (s.eotPhase == 3)
    (if s.chanEmpty .rxout then .next (s.logEvent .spurious).leaveHandler else .next { s with eotPhase := 4 })

/-- EOT.ACCOUNT, H4: turn the report into a byte count (43_end_of_transfer.md R186). -/
def execEotAccount (s : State) : Out :=
  eotStep s (s.eotPhase == 4 && !s.chanEmpty .rxout)
    (match s.xfer.b with
      | none => raise .reservedState s
      | some b =>
        .next { s.pop .rxout with outcome := some (countOf s.params.w b (s.headWord .rxout)), eotPhase := 5 })

/-- EOT.STOP_SEQ, H5 (43_end_of_transfer.md R187). -/
def execEotStopSeq (s : State) : Out :=
  eotStep s (s.eotPhase == 5) (.next { (s.deactivateSeq .rx).deactivateSeq .tx with eotPhase := 6 })

/-- EOT.SIGNAL, H6 (43_end_of_transfer.md R188). -/
def execEotSignal (s : State) : Out :=
  eotStep s (s.eotPhase == 6) (.next { s.setFlag with eotPhase := 7 })

/-- EOT.CALLBACK, H7: schedule the callback if this transfer asked for one, and return (43_end_of_transfer.md R189). -/
def execEotCallback (s : State) : Out :=
  eotStep s (s.eotPhase == 7)
    (if s.xfer.cbReq then
      (if s.defer.isSome then raise .callbackOverrun s
       else .next { s.leaveHandler with defer := s.outcome, deferOwn := true })
    else .next s.leaveHandler)

end Sys2Proof.Machine
end

