-- ==== Sys2Proof/Machine/Input.lean ====
section
/-! DEFINITION. The steps of the Input sequencer, RX (40_input_shifter.md). -/

namespace Sys2Proof.Machine

/-- RX.AWAIT_BUDGET (40_input_shifter.md R101). -/
def execRxAwaitBudget (s : State) : Out :=
  rxStep s (s.rx.state == rxAwaitBudgetCode && !s.chanEmpty .rxin)
    { s.pop .rxin with rx := { s.rx with r := s.headWord .rxin, state := rxAwaitCsHighCode } }

/-- RX.AWAIT_CS_HIGH (40_input_shifter.md R102). -/
def execRxAwaitCsHigh (s : State) : Out :=
  rxStep s (s.rx.state == rxAwaitCsHighCode && s.pins.cs == 1)
    { s with rx := { s.rx with state := rxAwaitCsLowCode } }

/-- RX.AWAIT_CS_LOW (40_input_shifter.md R103). -/
def execRxAwaitCsLow (s : State) : Out :=
  rxStep s (s.rx.state == rxAwaitCsLowCode && s.pins.cs == 0)
    { s with rx := { s.rx with bits := Config.bitsPerByte, shift := 0, state := rxWaitRiseCode } }

/-- RX.WAIT_RISE (40_input_shifter.md R104). -/
def execRxWaitRise (s : State) : Out :=
  rxStep s (s.rx.state == rxWaitRiseCode && s.pins.sck == 1)
    { s with rx := { s.rx with shift := shiftIn s.rx.shift s.pins.mosi, bits := s.rx.bits - 1, state := rxWaitFallCode } }

/-- RX.WAIT_FALL (40_input_shifter.md R105). -/
def execRxWaitFall (s : State) : Out :=
  rxStep s (s.rx.state == rxWaitFallCode && s.pins.sck == 0)
    { s with rx := { s.rx with state := if s.rx.bits = 0 then rxByteDoneCode else rxWaitRiseCode } }

/-- RX.BYTE_DONE: a byte is kept while the budget is not 0, and needs room in CH_RXOUT; the byte that finds it 0 is discarded
and the budget wraps to all ones (40_input_shifter.md R106). -/
def execRxByteDone (s : State) : Out :=
  if s.rx.r = 0 then
    rxStep s (s.rx.state == rxByteDoneCode)
      { s with rx := { s.rx with r := s.rx.r - 1, shift := 0, bits := 0, state := rxOverrunWatchCode } }
  else
    rxStep s (s.rx.state == rxByteDoneCode && !s.chanFull .rxout)
      { s.put .rxout (byteWord s.rx.shift) with
        rx := { s.rx with r := s.rx.r - 1, shift := 0, bits := Config.bitsPerByte, state := rxWaitRiseCode } }

/-- RX.OVERRUN_WATCH: never enabled; it is a hold (40_input_shifter.md R107). -/
def execRxOverrunWatch (s : State) : Out := rxStep s false s

/-- RX.END: the transfer-ended signal, a word in CH_RXIN while RX is inside a frame (40_input_shifter.md R108). -/
def execRxEnd (s : State) : Out :=
  rxStep s
    ((s.rx.state == rxWaitRiseCode || s.rx.state == rxWaitFallCode || s.rx.state == rxOverrunWatchCode) &&
      !s.chanEmpty .rxin)
    { s.pop .rxin with rx := { s.rx with shift := 0, bits := 0, state := rxReportCode } }

/-- RX.REPORT (40_input_shifter.md R109). -/
def execRxReport (s : State) : Out :=
  rxStep s (s.rx.state == rxReportCode && !s.chanFull .rxout)
    { s.put .rxout (reportWord s.params.w s.rx.r) with rx := { s.rx with state := rxAwaitBudgetCode } }

end Sys2Proof.Machine
end

