-- ==== Sys2Proof/Machine/Output.lean ====
section
/-! DEFINITION. The steps of the Output sequencer, TX (41_output_shifter.md). -/

namespace Sys2Proof.Machine

/-- TX.AWAIT_CS_HIGH (41_output_shifter.md R131). -/
def execTxAwaitCsHigh (s : State) : Out :=
  txStep s (s.tx.state == txAwaitCsHighCode && s.pins.cs == 1)
    { s with tx := { s.tx with state := txAwaitCsLowCode } }

/-- TX.AWAIT_CS_LOW (41_output_shifter.md R132). -/
def execTxAwaitCsLow (s : State) : Out :=
  txStep s (s.tx.state == txAwaitCsLowCode && s.pins.cs == 0)
    { s with tx := { s.tx with state := txLoadCode } }

/-- TX.LOAD; an empty feed is the underrun stall, a hold (41_output_shifter.md R133). -/
def execTxLoad (s : State) : Out :=
  txStep s (s.tx.state == txLoadCode && !s.chanEmpty .txin)
    { s.pop .txin with
      tx := { s.tx with shift := wordByte (s.headWord .txin), bits := Config.bitsPerByte, state := txWaitRiseCode } }

/-- TX.WAIT_RISE: emit the top bit (41_output_shifter.md R134). -/
def execTxWaitRise (s : State) : Out :=
  txStep s (s.tx.state == txWaitRiseCode && s.pins.sck == 1)
    { s.logEvent (.emit (topBit s.tx.shift)) with
      pins := { s.pins with miso := some (topBit s.tx.shift) }
      tx := { s.tx with shift := shiftIn s.tx.shift 0, bits := s.tx.bits - 1, state := txWaitFallCode } }

/-- TX.WAIT_FALL (41_output_shifter.md R135). -/
def execTxWaitFall (s : State) : Out :=
  txStep s (s.tx.state == txWaitFallCode && s.pins.sck == 0)
    { s with tx := { s.tx with state := if s.tx.bits = 0 then txLoadCode else txWaitRiseCode } }

end Sys2Proof.Machine
end

