-- ==== Sys2Proof/Machine/Signal.lean ====
section
/-! DEFINITION. The completion signal and the deferred callback (45_completion_signal.md). -/

namespace Sys2Proof.Machine

/-- SIG.SET (45_completion_signal.md R240). -/
def execSigSet (s : State) : Out := primStep s true s.setFlag

/-- SIG.CLEAR (45_completion_signal.md R241). -/
def execSigClear (s : State) : Out := primStep s true s.clearFlag

/-- SIG.WAIT: park the task whose command has reached its wait phase (45_completion_signal.md R242). -/
def execSigWait (t : TaskId) (s : State) : Out :=
  if s.mayContinue t then
    match s.task t with
    | .busy c .waiting =>
      if s.sig.waiter.isSome then raise .secondWaiter s
      else .next { s.setTask t (.suspended c) with sig := { s.sig with waiter := some t }, holder := none }
    | _ => hold s
  else hold s

/-- SIG.RESUME: wake the waiter and consume the flag (45_completion_signal.md R243). A task parked at DEINIT is never resumed
(44_facade.md R216, 70_reset_and_hazards.md R353, 93_implementation_defined.md U13; log entry 19). -/
def execSigResume (t : TaskId) (s : State) : Out :=
  if s.hostReady && s.life == .live && s.holder.isNone && s.sig.waiter == some t && s.sig.flag then
    match s.task t with
    | .suspended c => .next (({ s with sig := ⟨false, none⟩ }.observe t).atPhase t c .outcome)
    | _ => hold s
  else hold s

/-- SIG.POLL: READ's spin ends when the flag is set (45_completion_signal.md R244). -/
def execSigPoll (t : TaskId) (s : State) : Out :=
  if s.mayContinue t && s.task t == .spin && s.sig.flag then
    .next ((s.clearFlag.observe t).setTask t (.busy .read .outcome))
  else hold s

/-- DEFER.RUN: run the scheduled callback; its body is outside the block (45_completion_signal.md R245). -/
def execDeferRun (s : State) : Out :=
  if s.hostReady && s.holder.isNone then
    match s.defer with
    | some n => .next ({ s with defer := none }.observeCallback.logEvent (.callback n))
    | none => hold s
  else hold s

end Sys2Proof.Machine
end

