-- ==== Sys2Proof/Machine/Wire.lean ====
section
/-! DEFINITION. The external master's steps (46_wire_master.md). -/

namespace Sys2Proof.Machine

/-- WIRE.CS: set chip-select, with the edge detector in the same step (46_wire_master.md R260). -/
def execWireCs (v : Level) (s : State) : Out :=
  wireStep s ({ s with pins := { s.pins with cs := v } }.csEdge s.pins.cs v)

/-- WIRE.SCK (46_wire_master.md R261). -/
def execWireSck (v : Level) (s : State) : Out := wireStep s { s with pins := { s.pins with sck := v } }

/-- WIRE.MOSI (46_wire_master.md R262). -/
def execWireMosi (v : Level) (s : State) : Out := wireStep s { s with pins := { s.pins with mosi := v } }

/-- The level PIN.miso has for the master where one is defined: between an emission and the next falling edge
(46_wire_master.md R263). -/
def State.misoDefined (s : State) : Option Level :=
  if s.cfg.duplex && s.tx.active && s.tx.state == txWaitFallCode then s.pins.miso else none

/-- WIRE.SAMPLE: the defined level, or any bit (46_wire_master.md R263). -/
def execWireSample (s : State) : Out :=
  wireStep s
    (match s.misoDefined with
      | some v => { s with ret := .level v }
      | none => { s with ret := .level (Config.freeLevel s.draws), draws := s.draws + 1 })

end Sys2Proof.Machine
end

