-- ==== Sys2Proof/Machine/Dispatch.lean ====
section
/-! DEFINITION. The dispatch: one arm per step, each one direct call of its meaning. -/

namespace Sys2Proof.Machine

open Sys2Proof

def exec (i : Instr) (s : State) : Host.Outcome State Fault Refusal :=
  match i with
  -- HOST, 30_encoding.md R82
  | .construct t cap buf index pins cb irq => Sys2Proof.Machine.execConstruct t cap buf index pins cb irq s
  | .arm t dst b mode => Sys2Proof.Machine.execArm t dst b mode s
  | .write t src len repeats => Sys2Proof.Machine.execWrite t src len repeats s
  | .read t => Sys2Proof.Machine.execRead t s
  | .readInto t dst len => Sys2Proof.Machine.execReadInto t dst len s
  | .asReadInto t dst len => Sys2Proof.Machine.execAsReadInto t dst len s
  | .iterStep t => Sys2Proof.Machine.execIterStep t s
  | .deinit t => Sys2Proof.Machine.execDeinit t s
  | .outcomeRead t => Sys2Proof.Machine.execOutcomeRead t s
  | .memRead t addr => Sys2Proof.Machine.execMemRead t addr s
  -- RX, 30_encoding.md R83
  | .rxAwaitBudget => Sys2Proof.Machine.execRxAwaitBudget s
  | .rxAwaitCsHigh => Sys2Proof.Machine.execRxAwaitCsHigh s
  | .rxAwaitCsLow => Sys2Proof.Machine.execRxAwaitCsLow s
  | .rxWaitRise => Sys2Proof.Machine.execRxWaitRise s
  | .rxWaitFall => Sys2Proof.Machine.execRxWaitFall s
  | .rxByteDone => Sys2Proof.Machine.execRxByteDone s
  | .rxOverrunWatch => Sys2Proof.Machine.execRxOverrunWatch s
  | .rxReport => Sys2Proof.Machine.execRxReport s
  | .rxEnd => Sys2Proof.Machine.execRxEnd s
  -- TX, 30_encoding.md R84
  | .txAwaitCsHigh => Sys2Proof.Machine.execTxAwaitCsHigh s
  | .txAwaitCsLow => Sys2Proof.Machine.execTxAwaitCsLow s
  | .txLoad => Sys2Proof.Machine.execTxLoad s
  | .txWaitRise => Sys2Proof.Machine.execTxWaitRise s
  | .txWaitFall => Sys2Proof.Machine.execTxWaitFall s
  -- RDE and WRE, 30_encoding.md R85
  | .rdeXfer => Sys2Proof.Machine.execRdeXfer s
  | .rdeConfig dst count => Sys2Proof.Machine.execRdeConfig dst count s
  | .rdeActivate => Sys2Proof.Machine.execRdeActivate s
  | .rdeDeactivate => Sys2Proof.Machine.execRdeDeactivate s
  | .wreXfer => Sys2Proof.Machine.execWreXfer s
  | .wreConfig data count => Sys2Proof.Machine.execWreConfig data count s
  | .wreActivate => Sys2Proof.Machine.execWreActivate s
  | .wreDeactivate => Sys2Proof.Machine.execWreDeactivate s
  -- CTRL, 30_encoding.md R86
  | .seqDeactivate q => Sys2Proof.Machine.execSeqDeactivate q s
  | .seqRestart q => Sys2Proof.Machine.execSeqRestart q s
  | .seqActivate q => Sys2Proof.Machine.execSeqActivate q s
  | .chFlush c => Sys2Proof.Machine.execChFlush c s
  | .chPut c w => Sys2Proof.Machine.execChPut c w s
  | .chGet c => Sys2Proof.Machine.execChGet c s
  | .chEmpty c => Sys2Proof.Machine.execChEmpty c s
  -- EOT, 30_encoding.md R87
  | .csdetEdge old new => Sys2Proof.Machine.execCsdetEdge old new s
  | .eotEntry => Sys2Proof.Machine.execEotEntry s
  | .eotStopEngines => Sys2Proof.Machine.execEotStopEngines s
  | .eotPlaceholder => Sys2Proof.Machine.execEotPlaceholder s
  | .eotCheck => Sys2Proof.Machine.execEotCheck s
  | .eotAccount => Sys2Proof.Machine.execEotAccount s
  | .eotStopSeq => Sys2Proof.Machine.execEotStopSeq s
  | .eotSignal => Sys2Proof.Machine.execEotSignal s
  | .eotCallback => Sys2Proof.Machine.execEotCallback s
  -- SIG, 30_encoding.md R88
  | .sigSet => Sys2Proof.Machine.execSigSet s
  | .sigClear => Sys2Proof.Machine.execSigClear s
  | .sigWait t => Sys2Proof.Machine.execSigWait t s
  | .sigResume t => Sys2Proof.Machine.execSigResume t s
  | .sigPoll t => Sys2Proof.Machine.execSigPoll t s
  | .deferRun => Sys2Proof.Machine.execDeferRun s
  -- MASTER, 30_encoding.md R89
  | .wireCs v => Sys2Proof.Machine.execWireCs v s
  | .wireSck v => Sys2Proof.Machine.execWireSck v s
  | .wireMosi v => Sys2Proof.Machine.execWireMosi v s
  | .wireSample => Sys2Proof.Machine.execWireSample s

end Sys2Proof.Machine
end

