-- ==== Sys2Proof/Machine/Take.lean ====
section
/-! DEFINITION. The steps that agents take: every step but those that are only parts of others. -/

namespace Sys2Proof.Machine

/-- An agent takes a step. A step that is only ever a part of another is never enabled alone, so it holds (30_encoding.md R86,
42_copy_engines.md R150, 43_end_of_transfer.md R180, 45_completion_signal.md R240, R241; log entry 9). -/
def takeStep (i : Instr) (s : State) : Out := if i.isPart then hold s else exec i s

end Sys2Proof.Machine
end

