-- ==== Sys2Proof/Machine/Step.lean ====
section
/-! DEFINITION. One step of the machine: the next item of the schedule is decoded and its step is taken. -/

namespace Sys2Proof.Machine

/-- One step. A recorded fault stops the machine (00_scope.md R9, 10_state.md R45). Else the next item is decoded; a reserved code
records F_RESERVED_STEP (30_encoding.md R90, 60_exceptions.md R312). -/
def step (s : State) : Host.Outcome State Fault Refusal :=
  match s.fault with
  | some code => .fault (.stopped code)
  | none =>
    match decode (fetch s).1 with
    | .ok i => takeStep i (fetch s).2
    | .error (.reservedStep _) => raise .reservedStep (fetch s).2
    | .error (.badOperands code) => .refused (.badOperands code)

/-- The state in which the next step is the one this code names: its item, with zero operands, stands first in the schedule. -/
def State.withFetchWord (s : State) (_nbits w : Nat) : State := { s with sched := tableItem w :: s.sched }

end Sys2Proof.Machine
end

