-- ==== Sys2Proof/Safety.lean ====
section
/-! DEFINITION. What counts as a safe run, in the terms claims use: runs of steps, the conditions under which an agent's steps
are enabled, the invariants of the block, which steps can be taken, the PRIO schedule (70_reset_and_hazards.md R343), final states
(R356), and the well-formed master's frame (46_wire_master.md R264). -/

namespace Sys2Proof.Machine

/-- The steps of a list taken in order, by their agents; a run ends at the first fault or refusal. -/
def runSteps : List Instr → State → Out
  | [], s => .next s
  | i :: is, s =>
    match takeStep i s with
    | .next t => runSteps is t
    | .fault r => .fault r
    | .refused r => .refused r

/-! Conditions on a state -/

/-- `LIFE = LIVE` and `FAULT = NONE`. -/
abbrev State.Sound (s : State) : Prop := s.life = .live ∧ s.fault = none

/-- RX may step (40_input_shifter.md R100). -/
abbrev State.RxOn (s : State) : Prop := s.Sound ∧ s.rx.active = true

/-- TX may step (41_output_shifter.md R130). -/
abbrev State.TxOn (s : State) : Prop := s.Sound ∧ s.tx.active = true ∧ s.cfg.duplex = true

/-- Task t may start a command (44_facade.md R205). -/
abbrev State.TaskFree (s : State) (t : TaskId) : Prop :=
  s.fault = none ∧ s.eotPhase = 0 ∧ s.holder = none ∧ s.task t = .idle

/-- Task t holds the scheduler, with its command `c` at phase `p` (44_facade.md R205). -/
abbrev State.TaskAt (s : State) (t : TaskId) (c : Command) (p : Phase) : Prop :=
  s.fault = none ∧ s.eotPhase = 0 ∧ s.holder = some t ∧ s.task t = .busy c p

end Sys2Proof.Machine

namespace Sys2Proof

/-- A step of host context: the host commands, SIG.WAIT, SIG.RESUME, SIG.POLL and DEFER.RUN (10_state.md R50(a)). -/
def Instr.hostContext : Instr → Bool
  | .construct _ _ _ _ _ _ _ | .arm _ _ _ _ | .write _ _ _ _ | .read _ | .readInto _ _ _ | .asReadInto _ _ _ => true
  | .iterStep _ | .deinit _ | .outcomeRead _ | .memRead _ _ | .sigWait _ | .sigResume _ | .sigPoll _ | .deferRun => true
  | .rdeConfig _ _ | .rdeActivate | .rdeDeactivate | .wreConfig _ _ | .wreActivate | .wreDeactivate => false
  | .seqDeactivate _ | .seqRestart _ | .seqActivate _ | .chFlush _ | .chPut _ _ | .chGet _ | .chEmpty _ => false
  | .rxAwaitBudget | .rxAwaitCsHigh | .rxAwaitCsLow | .rxWaitRise | .rxWaitFall | .rxByteDone => false
  | .rxOverrunWatch | .rxReport | .rxEnd | .txAwaitCsHigh | .txAwaitCsLow | .txLoad | .txWaitRise | .txWaitFall => false
  | .rdeXfer | .wreXfer | .csdetEdge _ _ | .eotEntry | .eotStopEngines | .eotPlaceholder | .eotCheck => false
  | .eotAccount | .eotStopSeq | .eotSignal | .eotCallback | .sigSet | .sigClear => false
  | .wireCs _ | .wireSck _ | .wireMosi _ | .wireSample => false

/-- The task that takes a step of host context; none for DEFER.RUN and for the other agents. -/
def Instr.task? : Instr → Option TaskId
  | .construct t _ _ _ _ _ _ | .arm t _ _ _ | .write t _ _ _ | .read t | .readInto t _ _ | .asReadInto t _ _ => some t
  | .iterStep t | .deinit t | .outcomeRead t | .memRead t _ | .sigWait t | .sigResume t | .sigPoll t => some t
  | .rdeConfig _ _ | .rdeActivate | .rdeDeactivate | .wreConfig _ _ | .wreActivate | .wreDeactivate => none
  | .seqDeactivate _ | .seqRestart _ | .seqActivate _ | .chFlush _ | .chPut _ _ | .chGet _ | .chEmpty _ => none
  | .rxAwaitBudget | .rxAwaitCsHigh | .rxAwaitCsLow | .rxWaitRise | .rxWaitFall | .rxByteDone => none
  | .rxOverrunWatch | .rxReport | .rxEnd | .txAwaitCsHigh | .txAwaitCsLow | .txLoad | .txWaitRise | .txWaitFall => none
  | .rdeXfer | .wreXfer | .csdetEdge _ _ | .eotEntry | .eotStopEngines | .eotPlaceholder | .eotCheck => none
  | .eotAccount | .eotStopSeq | .eotSignal | .eotCallback | .sigSet | .sigClear => none
  | .deferRun | .wireCs _ | .wireSck _ | .wireMosi _ | .wireSample => none

end Sys2Proof

namespace Sys2Proof.Machine

/-! Invariants -/

/-- The registers: no state register holds a reserved code (30_encoding.md R91 to R93), the bit counters are in range where they
are used (40_input_shifter.md R104, 41_output_shifter.md R134), the engines' counters do not pass their ends, and the repeat count is
in `{-1} ∪ {0, 1, 2, ...}` (10_state.md R33). -/
structure RegInv (s : State) : Prop where
  rxState  : s.rx.state.toNat < 8
  txState  : s.tx.state.toNat < 5
  phase    : s.eotPhase.toNat < 8
  rxRise   : s.rx.state = 3 → 1 ≤ s.rx.bits.toNat ∧ s.rx.bits.toNat ≤ 8
  rxFall   : s.rx.state = 4 → s.rx.bits.toNat ≤ 7
  txRise   : s.tx.state = 3 → 1 ≤ s.tx.bits.toNat ∧ s.tx.bits.toNat ≤ 8
  txFall   : s.tx.state = 4 → s.tx.bits.toNat ≤ 7
  rdeIdx   : s.rde.idx.toNat ≤ s.rde.count.toNat
  wreIdx   : s.wre.idx.toNat ≤ s.wre.count.toNat
  wreCount : s.wre.count.toNat ≤ s.wre.data.length
  reps     : -1 ≤ s.stg.reps

/-- Storage: each channel holds at most FIFO_DEPTH words (10_state.md R30), and memory and the task table have their canonical
form. -/
structure StoreInv (s : State) : Prop where
  rxin  : s.ch.rxin.length ≤ s.params.depth
  rxout : s.ch.rxout.length ≤ s.params.depth
  txin  : s.ch.txin.length ≤ s.params.depth
  mem   : s.mem.wf = true
  tasks : Tab.wf .idle s.tasks = true

/-- The device's life: outside LIVE every agent is inactive, the interrupt is released and the handler idle (44_facade.md R210,
R216); while LIVE the interrupt is bound (10_state.md R39); TX and WRE never run without a data-out pin (10_state.md R20); the
configuration is what CONSTRUCT makes (44_facade.md R210); past EOT.ACCOUNT there is an outcome (43_end_of_transfer.md R186); a
command is in progress or spins only while LIVE (44_facade.md R205, R206), so that DEINIT leaves none but a parked one
(70_reset_and_hazards.md R353). -/
structure LifeInv (s : State) : Prop where
  rxOff   : s.life ≠ .live → s.rx.active = false
  txOff   : s.life ≠ .live → s.tx.active = false
  rdeOff  : s.life ≠ .live → s.rde.active = false
  wreOff  : s.life ≠ .live → s.wre.active = false
  bound   : s.irq.bound = decide (s.life = .live)
  pending : s.life ≠ .live → s.irq.pending = false
  idle    : s.life ≠ .live → s.eotPhase = 0
  noTx    : s.cfg.duplex = false → s.tx.active = false
  noWre   : s.cfg.duplex = false → s.wre.active = false ∧ s.wre.cfg = false
  duplex  : s.cfg.duplex = s.cfg.pins.miso.isSome
  hasCb   : s.cfg.hasCb = s.cfg.cb.isSome
  soft    : s.cfg.irqMode = .soft
  counted : 5 ≤ s.eotPhase.toNat → s.outcome.isSome = true
  busy    : ∀ t c p, s.task t = .busy c p → s.life = .live
  spin    : ∀ t, s.task t = .spin → s.life = .live

/-- The phase fits the command (44_facade.md R212 to R215). -/
def phaseFits : Command → Phase → Bool
  | _, .arming _ => true
  | .read, .spinning => true
  | .asReadInto _ _, .waiting => true
  | .iterStep, .waiting => true
  | .read, .outcome => true
  | .asReadInto _ _, .outcome => true
  | .iterStep, .outcome => true
  | .read, .returning _ => true
  | .asReadInto _ _, .returning _ => true
  | .iterStep, .returning _ => true
  | .readInto _ _, .leaving => true
  | _, _ => false

/-- The cooperative scheduler (10_state.md R47): a task that is BUSY or SPINs is the holder, a SUSPENDED task is the one waiter and
is so in a command that waits, the holder is BUSY or SPINs, the waiter is SUSPENDED, and a busy command is at a phase of its
own. -/
structure HostInv (s : State) : Prop where
  busy      : ∀ t c p, s.task t = .busy c p → s.holder = some t ∧ phaseFits c p = true
  spin      : ∀ t, s.task t = .spin → s.holder = some t
  suspended : ∀ t c, s.task t = .suspended c → s.sig.waiter = some t ∧ phaseFits c .waiting = true
  holder    : ∀ t, s.holder = some t → s.task t = .spin ∨ ∃ c p, s.task t = .busy c p
  waiter    : ∀ t, s.sig.waiter = some t → ∃ c, s.task t = .suspended c

/-! What can be taken -/

/-- The step would not be a hold. -/
def canStep (i : Instr) (s : State) : Bool :=
  match takeStep i s with
  | .next t => decide (t ≠ s)
  | .fault _ => true
  | .refused _ => true

/-- The steps of RX, TX, RDE and WRE. -/
def hardwareSteps : List Instr :=
  [.rxAwaitBudget, .rxAwaitCsHigh, .rxAwaitCsLow, .rxWaitRise, .rxWaitFall, .rxByteDone, .rxOverrunWatch, .rxEnd, .rxReport,
   .txAwaitCsHigh, .txAwaitCsLow, .txLoad, .txWaitRise, .txWaitFall, .rdeXfer, .wreXfer]

/-- The steps of the handler. -/
def handlerSteps : List Instr :=
  [.eotEntry, .eotStopEngines, .eotPlaceholder, .eotCheck, .eotAccount, .eotStopSeq, .eotSignal, .eotCallback]

/-- The host-context steps that are waiting to be taken: the deferred callback, the waiter's resume, and the next phase of the
holder's command under whichever code takes it (the operands of a command already started are not read). -/
def pendingHostSteps (s : State) : List Instr :=
  [.deferRun] ++ (s.sig.waiter.toList.map .sigResume) ++
    s.holder.toList.flatMap fun t =>
      [.arm t 0 0 .blocking, .read t, .readInto t 0 0, .asReadInto t 0 0, .iterStep t, .outcomeRead t, .sigWait t, .sigPoll t]

/-- No step of the list can be taken. -/
def allHeld (is : List Instr) (s : State) : Bool := is.all fun i => !canStep i s

/-- A task may start a command that is still to come. The next command of an idle task is the first step of its own there that is a
host command (44_facade.md R205); steps of other agents that name the task (SIG.WAIT, SIG.RESUME, SIG.POLL) are no commands. -/
def commandEnabled (script : List Instr) (s : State) : Bool :=
  script.any fun i => i.agent == Agent.host && i.task?.any s.mayStart

/-- No step of host context can be taken, neither one that is waiting nor the next command of a task's script. -/
def hostHeld (script : List Instr) (s : State) : Bool := allHeld (pendingHostSteps s) s && !commandEnabled script s

/-- The step is one PRIO may take in this state, where `script` holds the steps still to come, the tasks' commands among them
(70_reset_and_hazards.md R343): hardware first, then the handler, then host context, then the master. -/
def prio (i : Instr) (script : List Instr) (s : State) : Bool :=
  if hardwareSteps.contains i then true
  else if handlerSteps.contains i then allHeld hardwareSteps s
  else if i.hostContext then allHeld hardwareSteps s && allHeld handlerSteps s
  else if i.agent == Agent.master then allHeld hardwareSteps s && allHeld handlerSteps s && hostHeld script s
  else false

/-- Every step of the run is one PRIO may take. -/
def prioRun : List Instr → State → Bool
  | [], _ => true
  | i :: is, s =>
    prio i is s &&
      match takeStep i s with
      | .next t => prioRun is t
      | .fault _ => false
      | .refused _ => false

/-- The steps still to come, decoded; an item that is no step is none. -/
def State.script (s : State) : List (Option Instr) := s.sched.map fun it => (decode it).toOption

/-- Nothing more happens (70_reset_and_hazards.md R356): no fault, the master's script is finished, no step of RX, TX, RDE, WRE, EOT
or host context can be taken, the tasks' next commands among them, and the script holds nothing that is no step. -/
def State.quiet (s : State) : Bool :=
  s.fault.isNone && s.script.all (fun i => i.any fun i => i.agent != Agent.master) &&
    allHeld hardwareSteps s && allHeld handlerSteps s && hostHeld (s.script.filterMap id) s

/-- A final state (70_reset_and_hazards.md R356): nothing more happens, no edge is pending, the handler is idle, no callback is
scheduled, and every task is IDLE with no waiter parked. -/
def State.final (s : State) : Bool :=
  s.quiet && !s.irq.pending && s.eotPhase == 0 && s.defer.isNone && s.tasks.isEmpty && s.holder.isNone && s.sig.waiter.isNone

/-- A stuck state (70_reset_and_hazards.md R356): nothing more happens, and yet a waiter is parked, a READ spins, an edge is pending,
the handler is held, or (42_copy_engines.md R163) an ARM is held. -/
def State.stuck (s : State) : Bool :=
  s.quiet && (s.sig.waiter.isSome || s.holder.isSome || s.irq.pending || s.eotPhase != 0)

/-! The well-formed master (46_wire_master.md R264), and its frame with the RX steps it lets run -/

/-- A frame of the well-formed master, its own steps only (46_wire_master.md R264 points 2 to 4). -/
def masterFrame (bits : List Level) : List Instr :=
  [.wireCs 0] ++ bits.flatMap (fun c => [.wireMosi c, .wireSck 1, .wireSck 0]) ++ [.wireCs 1]

/-- The well-formed master may take its next step: no hardware step can be taken, and before it asserts chip-select the handler has
returned (46_wire_master.md R264 points 5 and 6). -/
def masterMay (i : Instr) (s : State) : Bool :=
  allHeld hardwareSteps s && (i != .wireCs 0 || (s.eotPhase == 0 && !s.irq.pending))

/-- The launch premises on the state at CONSTRUCT (70_reset_and_hazards.md R344). -/
def State.launched (s : State) : Bool :=
  s.params.w == 16 && s.params.depth == 4 && s.pins.cs == 1 && s.pins.sck == 0 && s.pins.mosi == 0

/-- One bit of a frame: MOSI, then SCK up, RX's sample, SCK down, RX's wait for the fall. -/
def bitSteps (c : Level) : List Instr :=
  [.wireMosi c, .wireSck 1, .rxWaitRise, .wireSck 0, .rxWaitFall]

/-- The bits of a byte as they cross the wire, most significant first (30_encoding.md R95). -/
def wireBits (b : Byte) : List Level :=
  [b.extractLsb' 7 1, b.extractLsb' 6 1, b.extractLsb' 5 1, b.extractLsb' 4 1,
   b.extractLsb' 3 1, b.extractLsb' 2 1, b.extractLsb' 1 1, b.extractLsb' 0 1]

/-- One byte of a frame, with RX's hand-over and RDE's copy after it. -/
def byteSteps (b : Byte) : List Instr := (wireBits b).flatMap bitSteps ++ [.rxByteDone, .rdeXfer]

/-- A frame of complete bytes and then some bits, from assertion to deassertion, in the order PRIO takes it (a step that is not
enabled is a hold), and the handler run that follows it. -/
def frameSteps (bytes : List Byte) (tail : List Level) : List Instr :=
  [.wireCs 0, .rxAwaitCsLow] ++ bytes.flatMap byteSteps ++ tail.flatMap bitSteps ++
    [.wireCs 1, .eotEntry, .eotStopEngines, .eotPlaceholder, .rxEnd, .rxReport, .eotCheck, .eotAccount, .eotStopSeq,
     .eotSignal, .eotCallback]

/-- The device as a completed ARM of budget `b` leaves it once RX has taken the budget and seen chip-select deasserted, before the
frame (42_copy_engines.md R166, 70_reset_and_hazards.md R342, R344). -/
structure ReadyForFrame (s : State) (b : Word) : Prop where
  sound   : s.Sound
  params  : 2 ≤ s.params.w ∧ s.params.w ≤ 32 ∧ 2 ≤ s.params.depth
  budget  : 1 ≤ b.toNat ∧ b.toNat ≤ 2 ^ s.params.w - 2
  rx      : s.rx.active = true ∧ s.rx.state = 2 ∧ s.rx.r = b
  rde     : s.rde.active = true ∧ s.rde.count = b ∧ s.rde.idx = 0
  xfer    : s.xfer.b = some b ∧ s.xfer.dst = s.rde.dst
  chans   : s.ch.rxin = [] ∧ s.ch.rxout = []
  pins    : s.pins.cs = 1 ∧ s.pins.sck = 0
  irq     : s.irq.bound = true ∧ s.irq.pending = false ∧ s.eotPhase = 0
  slot    : s.defer = none

end Sys2Proof.Machine
end

