-- ==== Sys2Proof/Certificates/Slice0/Obligations.lean ====
section
/-! DEFINITION. The statements for the provers. Each docstring names the rules of spec/ that a statement formalises, or the
sections it rests on, and says where it rests on a choice of the model's. -/

open Sys2Proof Sys2Proof.Machine

/-! ## Encoding -/

/-- The encoder writes a well-formed item, and decoding it gives the step back, for every step and every value of its operands
(30_encoding.md R80 to R89, R97). The way operands are written in an item is the model's (log entry 1). -/
def Obligations.DecodeOfEncode : Prop :=
  ∀ i : Instr, (encode i).wf = true ∧ decode (encode i) = .ok i

/-- Exactly the well-formed items whose code is not reserved decode (30_encoding.md R97, R99), and each to the step whose own code it
carries (R80, R82 to R89). The form of an item is the model's (log entries 1 and 18). -/
def Obligations.DecodedStepHasItsCode : Prop :=
  (∀ it : Item, (∃ i, decode it = .ok i) ↔ reservedCode it.code = false ∧ it.wf = true) ∧
  (∀ (it : Item) (i : Instr), decode it = .ok i → (encode i).code = it.code)

/-- 30_encoding.md R90 and 60_exceptions.md R312: the codes listed there name no step, whatever stands after them; meeting one
records F_RESERVED_STEP, code 0x1A, and does nothing else; no other code is refused as reserved. -/
def Obligations.ReservedCodesNameNoStep : Prop :=
  (∀ it : Item,
    decode it = .error (.reservedStep it.code) ↔
      0x90 ≤ it.code.toNat ∨ it.code.toNat = 0x00 ∨ (0x0B ≤ it.code.toNat ∧ it.code.toNat ≤ 0x0F) ∨
      (0x19 ≤ it.code.toNat ∧ it.code.toNat ≤ 0x1F) ∨ (0x25 ≤ it.code.toNat ∧ it.code.toNat ≤ 0x2F) ∨
      (0x34 ≤ it.code.toNat ∧ it.code.toNat ≤ 0x3F) ∨ (0x44 ≤ it.code.toNat ∧ it.code.toNat ≤ 0x4F) ∨
      (0x57 ≤ it.code.toNat ∧ it.code.toNat ≤ 0x5F) ∨ (0x69 ≤ it.code.toNat ∧ it.code.toNat ≤ 0x6F) ∨
      (0x76 ≤ it.code.toNat ∧ it.code.toNat ≤ 0x7F) ∨ (0x84 ≤ it.code.toNat ∧ it.code.toNat ≤ 0x8F)) ∧
  (∀ (s : State) (it : Item) (rest : List Item),
    s.fault = none → s.sched = it :: rest → decode it = .error (.reservedStep it.code) →
      step s = .next { s with sched := rest, fault := some .reservedStep }) ∧
  faultNumber .reservedStep = 0x1A

/-- 30_encoding.md R82 to R89, codes of one step of each agent and the vectors V-DEC1 to V-DEC7 of 95_test_vectors.md; and WRITE
written without its `repeats` operand, which is then 1 (R97, V-H8). The form of an item is the model's (log entry 1). -/
def Obligations.WrittenCodesDecode : Prop :=
  decode ⟨1, 0x02, [.nat 0x20000000, .nat 4, .nat 0]⟩ = .ok (.arm 1 0x20000000 4 .blocking) ∧
  decode ⟨0, 0x15, []⟩ = .ok .rxByteDone ∧ decode ⟨0, 0x18, []⟩ = .ok .rxEnd ∧ decode ⟨0, 0x22, []⟩ = .ok .txLoad ∧
  decode ⟨0, 0x30, []⟩ = .ok .rdeXfer ∧ decode ⟨0, 0x40, []⟩ = .ok .wreXfer ∧
  decode ⟨0, 0x53, [.chan .rxout]⟩ = .ok (.chFlush .rxout) ∧ decode ⟨0, 0x68, []⟩ = .ok .eotCallback ∧
  decode ⟨3, 0x73, []⟩ = .ok (.sigResume 3) ∧ decode ⟨0, 0x83, []⟩ = .ok .wireSample ∧
  decode ⟨0, 0x81, [.nat 1]⟩ = .ok (.wireSck 1) ∧
  decode ⟨1, 0x03, [.nat 0x20002000, .nat 3]⟩ = .ok (.write 1 0x20002000 3 1) ∧
  decode ⟨0, 0x9F, []⟩ = .error (.reservedStep 0x9F) ∧ decode ⟨0, 0x57, []⟩ = .error (.reservedStep 0x57) ∧
  decode ⟨0, 0x19, []⟩ = .error (.reservedStep 0x19)

/-! ## The machine's step -/

/-- With no fault recorded, one step of the machine is the scheduled item's step, taken in the state without that item; a step that
is only ever a part of another is never taken alone and holds (30_encoding.md R86, 42_copy_engines.md R150, 43_end_of_transfer.md
R180, 45_completion_signal.md R240, R241; log entry 9); where the schedule is empty the item is a free choice (10_state.md R50; log
entry 2). Operands that are not the code's are refused (log entry 18). A machine whose fault is recorded is stopped (log entry
17). -/
def Obligations.StepTakesScheduledItem : Prop :=
  (∀ (s : State) (it : Item) (rest : List Item) (i : Instr),
    s.fault = none → s.sched = it :: rest → decode it = .ok i →
      (i.isPart = false → step s = exec i { s with sched := rest }) ∧
      (i.isPart = true → step s = .next { s with sched := rest })) ∧
  (∀ s : State,
    s.fault = none → s.sched = [] →
      step s = step { s with sched := [Config.freeChoice s.draws], draws := s.draws + 1 }) ∧
  (∀ (s : State) (it : Item) (rest : List Item),
    s.fault = none → s.sched = it :: rest → decode it = .error (.badOperands it.code) →
      step s = .refused (.badOperands it.code)) ∧
  (∀ (s : State) (c : FaultCode), s.fault = some c → step s = .fault (.stopped c))

/-- 10_state.md R45: once FAULT is not NONE it never changes and no step of any agent is enabled (every step holds); after
CONSTRUCT it is NONE. -/
def Obligations.FaultStopsEveryAgent : Prop :=
  (∀ (i : Instr) (s : State), s.fault ≠ none → exec i s = .next s) ∧
  (∀ (s : State) (cfg : Cfg), (s.built cfg).fault = none)

/-- Every step of every agent answers a next state, in every state. No instruction is refused. That a step which faults answers a next
state too, the one with the fault recorded, is the model's choice (log entry 17, on 00_scope.md R9 and 60_exceptions.md R300). -/
def Obligations.EveryStepAnswersNext : Prop :=
  ∀ (i : Instr) (s : State), ∃ t, exec i s = .next t

/-- 60_exceptions.md R300: a step that records a fault has no other effect, a recorded fault is never changed or cleared, and a
faulted state is never final. 70_reset_and_hazards.md R356: nor is it stuck; no state is both; where nothing more happens no step
still to come has an effect; and where the scheduler's invariant holds besides (`HostInvKept`) the state is one of the two. The script
is what is left of the model's schedule (log entry 2). -/
def Obligations.FaultIsTheOnlyEffect : Prop :=
  (∀ (i : Instr) (s t : State),
    exec i s = .next t → s.fault = none → t.fault ≠ none → t = { s with fault := t.fault }) ∧
  (∀ (i : Instr) (s t : State) (c : FaultCode), exec i s = .next t → s.fault = some c → t.fault = some c) ∧
  (∀ s : State, s.fault ≠ none → s.final = false ∧ s.stuck = false) ∧
  (∀ s : State, s.final = true → s.stuck = false) ∧
  (∀ (s : State) (i : Instr), s.quiet = true → some i ∈ s.script → takeStep i s = .next s) ∧
  (∀ s : State, s.quiet = true → HostInv s → Tab.wf .idle s.tasks = true → s.final = true ∨ s.stuck = true)

/-! ## The Input sequencer -/

/-- 40_input_shifter.md R101. -/
def Obligations.RxAwaitBudgetLoads : Prop :=
  (∀ (s : State) (w : Word) (rest : List Word),
    s.RxOn → s.rx.state = 0 → s.ch.rxin = w :: rest →
      exec .rxAwaitBudget s =
        .next { s with ch := { s.ch with rxin := rest }, rx := { s.rx with r := w, state := 1 } }) ∧
  (∀ s : State,
    s.RxOn → s.rx.state.toNat < 8 → s.rx.state ≠ 0 ∨ s.ch.rxin = [] → exec .rxAwaitBudget s = .next s)

/-- 40_input_shifter.md R102, R103. -/
def Obligations.RxChipSelectWaits : Prop :=
  (∀ s : State,
    s.RxOn → s.rx.state = 1 → s.pins.cs = 1 →
      exec .rxAwaitCsHigh s = .next { s with rx := { s.rx with state := 2 } }) ∧
  (∀ s : State,
    s.RxOn → s.rx.state.toNat < 8 → s.rx.state ≠ 1 ∨ s.pins.cs = 0 → exec .rxAwaitCsHigh s = .next s) ∧
  (∀ s : State,
    s.RxOn → s.rx.state = 2 → s.pins.cs = 0 →
      exec .rxAwaitCsLow s = .next { s with rx := { s.rx with bits := 8, shift := 0, state := 3 } }) ∧
  (∀ s : State,
    s.RxOn → s.rx.state.toNat < 8 → s.rx.state ≠ 2 ∨ s.pins.cs = 1 → exec .rxAwaitCsLow s = .next s)

/-- 40_input_shifter.md R104, R105. -/
def Obligations.RxShiftsOneBit : Prop :=
  (∀ s : State,
    s.RxOn → s.rx.state = 3 → s.pins.sck = 1 →
      exec .rxWaitRise s =
        .next { s with rx := { s.rx with shift := (s.rx.shift <<< 1) ||| s.pins.mosi.setWidth 8,
                                         bits := s.rx.bits - 1, state := 4 } }) ∧
  (∀ s : State,
    s.RxOn → s.rx.state.toNat < 8 → s.rx.state ≠ 3 ∨ s.pins.sck = 0 → exec .rxWaitRise s = .next s) ∧
  (∀ s : State,
    s.RxOn → s.rx.state = 4 → s.pins.sck = 0 → s.rx.bits = 0 →
      exec .rxWaitFall s = .next { s with rx := { s.rx with state := 5 } }) ∧
  (∀ s : State,
    s.RxOn → s.rx.state = 4 → s.pins.sck = 0 → s.rx.bits ≠ 0 →
      exec .rxWaitFall s = .next { s with rx := { s.rx with state := 3 } }) ∧
  (∀ s : State,
    s.RxOn → s.rx.state.toNat < 8 → s.rx.state ≠ 4 ∨ s.pins.sck = 1 → exec .rxWaitFall s = .next s)

/-- 40_input_shifter.md R106: the kept byte, the discarded one, and the stall on a full output channel. -/
def Obligations.RxByteDoneTestsThenDecrements : Prop :=
  (∀ s : State,
    s.RxOn → s.rx.state = 5 → s.rx.r ≠ 0 → s.ch.rxout.length < s.params.depth →
      exec .rxByteDone s =
        .next { s with ch := { s.ch with rxout := s.ch.rxout ++ [s.rx.shift.setWidth 32] },
                       rx := { s.rx with r := BitVec.ofNat 32 (s.rx.r.toNat - 1), shift := 0, bits := 8, state := 3 } }) ∧
  (∀ s : State,
    s.RxOn → s.rx.state = 5 → s.rx.r = 0 →
      exec .rxByteDone s =
        .next { s with rx := { s.rx with r := 0xFFFFFFFF, shift := 0, bits := 0, state := 6 } }) ∧
  (∀ s : State,
    s.RxOn → s.rx.state = 5 → s.rx.r ≠ 0 → s.params.depth ≤ s.ch.rxout.length → exec .rxByteDone s = .next s) ∧
  (∀ s : State, s.RxOn → s.rx.state.toNat < 8 → s.rx.state ≠ 5 → exec .rxByteDone s = .next s)

/-- 40_input_shifter.md R107, R108: parked after an overrun every RX step but RX.END holds, RX.OVERRUN_WATCH is a hold in every
state, and the transfer-ended signal ends the frame from WAIT_RISE, WAIT_FALL and OVERRUN_WATCH. -/
def Obligations.RxEndsAtTransferEnded : Prop :=
  (∀ s : State, s.RxOn → s.rx.state.toNat < 8 → exec .rxOverrunWatch s = .next s) ∧
  (∀ (i : Instr) (s : State), i.agent = .rx → i ≠ .rxEnd → s.RxOn → s.rx.state = 6 → exec i s = .next s) ∧
  (∀ (s : State) (w : Word) (rest : List Word),
    s.RxOn → s.rx.state = 3 ∨ s.rx.state = 4 ∨ s.rx.state = 6 → s.ch.rxin = w :: rest →
      exec .rxEnd s =
        .next { s with ch := { s.ch with rxin := rest }, rx := { s.rx with shift := 0, bits := 0, state := 7 } }) ∧
  (∀ s : State,
    s.RxOn → s.rx.state.toNat < 8 → (s.rx.state ≠ 3 ∧ s.rx.state ≠ 4 ∧ s.rx.state ≠ 6) ∨ s.ch.rxin = [] →
      exec .rxEnd s = .next s)

/-- 40_input_shifter.md R109: the report is the remaining budget truncated to W bits, for every W of 00_scope.md R6; after an
overrun it is `2^W - 1`, SENTINEL; a budget left of at most `2^W - 2` is reported as it is. -/
def Obligations.RxReportsRemainingBudget : Prop :=
  (∀ s : State,
    s.RxOn → s.rx.state = 7 → s.ch.rxout.length < s.params.depth → 2 ≤ s.params.w → s.params.w ≤ 32 →
      exec .rxReport s =
        .next { s with ch := { s.ch with rxout := s.ch.rxout ++ [BitVec.ofNat 32 (s.rx.r.toNat % 2 ^ s.params.w)] },
                       rx := { s.rx with state := 0 } }) ∧
  (∀ s : State,
    s.RxOn → s.rx.state.toNat < 8 → s.rx.state ≠ 7 ∨ s.params.depth ≤ s.ch.rxout.length →
      exec .rxReport s = .next s) ∧
  (∀ w : Nat, 2 ≤ w → w ≤ 32 → (reportWord w 0xFFFFFFFF).toNat = 2 ^ w - 1) ∧
  (∀ (w : Nat) (r : Word), 2 ≤ w → w ≤ 32 → r.toNat ≤ 2 ^ w - 2 → reportWord w r = r ∧ reportWord w r ≠ sentinel w)

/-- 40_input_shifter.md R100: an RX step changes nothing unless RX is on; it writes only RX's registers, CH_RXIN by taking its
oldest word and CH_RXOUT by adding one (and FAULT on a reserved code); every byte of memory reads as before; and what it writes
depends on RX's registers, the pins and the two channels alone (with the conditions it is enabled under and the parameters). -/
def Obligations.RxTouchesOnlyItsOwn : Prop :=
  (∀ (i : Instr) (s t : State), i.agent = .rx → exec i s = .next t →
    (¬ s.RxOn → t = s) ∧
    t = { s with rx := t.rx, ch := { s.ch with rxin := t.ch.rxin, rxout := t.ch.rxout }, fault := t.fault } ∧
    t.rx.active = s.rx.active ∧
    (t.ch.rxin = s.ch.rxin ∨ ∃ w, s.ch.rxin = w :: t.ch.rxin) ∧
    (t.ch.rxout = s.ch.rxout ∨ ∃ w, t.ch.rxout = s.ch.rxout ++ [w]) ∧
    (∀ a, t.memRead a = s.memRead a)) ∧
  (∀ (i : Instr) (s s' t t' : State), i.agent = .rx →
    s'.rx = s.rx → s'.pins.cs = s.pins.cs → s'.pins.sck = s.pins.sck → s'.pins.mosi = s.pins.mosi →
    s'.ch.rxin = s.ch.rxin → s'.ch.rxout = s.ch.rxout → s'.life = s.life → s'.fault = s.fault → s'.params = s.params →
    exec i s = .next t → exec i s' = .next t' →
      t'.rx = t.rx ∧ t'.ch.rxin = t.ch.rxin ∧ t'.ch.rxout = t.ch.rxout ∧ t'.fault = t.fault)

/-- 40_input_shifter.md R114: no step of any agent moves RX's state register but along the rows of the state graph, each under its
condition, and to AWAIT_BUDGET by SEQ.RESTART (as itself or in ARM) or CONSTRUCT. -/
def Obligations.RxMovesAlongStateGraph : Prop :=
  ∀ (i : Instr) (s t : State), exec i s = .next t → t.rx.state ≠ s.rx.state →
    (i = .rxAwaitBudget ∧ s.rx.state = 0 ∧ s.ch.rxin ≠ [] ∧ t.rx.state = 1) ∨
    (i = .rxAwaitCsHigh ∧ s.rx.state = 1 ∧ s.pins.cs = 1 ∧ t.rx.state = 2) ∨
    (i = .rxAwaitCsLow ∧ s.rx.state = 2 ∧ s.pins.cs = 0 ∧ t.rx.state = 3) ∨
    (i = .rxWaitRise ∧ s.rx.state = 3 ∧ s.pins.sck = 1 ∧ t.rx.state = 4) ∨
    (i = .rxEnd ∧ s.rx.state = 3 ∧ s.ch.rxin ≠ [] ∧ t.rx.state = 7) ∨
    (i = .rxWaitFall ∧ s.rx.state = 4 ∧ s.pins.sck = 0 ∧ t.rx.state = if s.rx.bits = 0 then 5 else 3) ∨
    (i = .rxEnd ∧ s.rx.state = 4 ∧ s.ch.rxin ≠ [] ∧ t.rx.state = 7) ∨
    (i = .rxByteDone ∧ s.rx.state = 5 ∧ s.rx.r ≠ 0 ∧ s.ch.rxout.length < s.params.depth ∧ t.rx.state = 3) ∨
    (i = .rxByteDone ∧ s.rx.state = 5 ∧ s.rx.r = 0 ∧ t.rx.state = 6) ∨
    (i = .rxEnd ∧ s.rx.state = 6 ∧ s.ch.rxin ≠ [] ∧ t.rx.state = 7) ∨
    (i = .rxReport ∧ s.rx.state = 7 ∧ s.ch.rxout.length < s.params.depth ∧ t.rx.state = 0) ∨
    (t.rx.state = 0 ∧
      (i = .seqRestart .rx ∨ (∃ k d b m, i = .arm k d b m) ∨ ∃ k c b x p cb q, i = .construct k c b x p cb q))

/-- 40_input_shifter.md R111, 41_output_shifter.md R136, 30_encoding.md R93, 60_exceptions.md R311: a step of the agent whose state
register holds a reserved code records F_RESERVED_STATE, code 0x19, once the agent may step at all (log entry 16); so does
EOT.ACCOUNT with no transfer armed. -/
def Obligations.ReservedStateCodesFault : Prop :=
  (∀ (i : Instr) (s : State), i.agent = .rx → s.RxOn → 8 ≤ s.rx.state.toNat →
    exec i s = .next { s with fault := some .reservedState }) ∧
  (∀ (i : Instr) (s : State), i.agent = .tx → s.TxOn → 5 ≤ s.tx.state.toNat →
    exec i s = .next { s with fault := some .reservedState }) ∧
  (∀ (i : Instr) (s : State), i ∈ handlerSteps → s.Sound → 8 ≤ s.eotPhase.toNat →
    exec i s = .next { s with fault := some .reservedState }) ∧
  (∀ s : State, s.Sound → s.eotPhase = 4 → s.ch.rxout ≠ [] → s.xfer.b = none →
    exec .eotAccount s = .next { s with fault := some .reservedState }) ∧
  faultNumber .reservedState = 0x19

/-- 30_encoding.md R95: a byte clocked in most significant bit first is what RX's shift register then holds, and the byte in TX's
shift register goes out most significant bit first. From any state with RX (TX) at the start of a byte. -/
def Obligations.ByteCrossesTheWire : Prop :=
  (∀ (s : State) (b : Byte), s.RxOn → s.rx.state = 3 → s.rx.bits = 8 →
    runSteps ((wireBits b).flatMap bitSteps) s =
      .next { s with rx := { s.rx with shift := b, bits := 0, state := 5 },
                     pins := { s.pins with mosi := b.extractLsb' 0 1, sck := 0 } }) ∧
  (∀ s : State, s.TxOn → s.tx.state = 3 → s.tx.bits = 8 →
    runSteps ((List.replicate 8 [Instr.wireSck 1, .txWaitRise, .wireSck 0, .txWaitFall]).flatten) s =
      .next { s with tx := { s.tx with shift := 0, bits := 0, state := 2 },
                     pins := { s.pins with miso := some (s.tx.shift.extractLsb' 0 1), sck := 0 },
                     log := s.log ++ (wireBits s.tx.shift).map .emit })

/-! ## The Output sequencer -/

/-- 41_output_shifter.md R131, R132, R133. -/
def Obligations.TxWaitsAndLoads : Prop :=
  (∀ s : State, s.TxOn → s.tx.state = 0 → s.pins.cs = 1 →
    exec .txAwaitCsHigh s = .next { s with tx := { s.tx with state := 1 } }) ∧
  (∀ s : State, s.TxOn → s.tx.state.toNat < 5 → s.tx.state ≠ 0 ∨ s.pins.cs = 0 → exec .txAwaitCsHigh s = .next s) ∧
  (∀ s : State, s.TxOn → s.tx.state = 1 → s.pins.cs = 0 →
    exec .txAwaitCsLow s = .next { s with tx := { s.tx with state := 2 } }) ∧
  (∀ s : State, s.TxOn → s.tx.state.toNat < 5 → s.tx.state ≠ 1 ∨ s.pins.cs = 1 → exec .txAwaitCsLow s = .next s) ∧
  (∀ (s : State) (w : Word) (rest : List Word), s.TxOn → s.tx.state = 2 → s.ch.txin = w :: rest →
    exec .txLoad s =
      .next { s with ch := { s.ch with txin := rest },
                     tx := { s.tx with shift := w.extractLsb' 0 8, bits := 8, state := 3 } }) ∧
  (∀ s : State, s.TxOn → s.tx.state.toNat < 5 → s.tx.state ≠ 2 ∨ s.ch.txin = [] → exec .txLoad s = .next s)

/-- 41_output_shifter.md R134, R135. -/
def Obligations.TxEmitsOneBit : Prop :=
  (∀ s : State, s.TxOn → s.tx.state = 3 → s.pins.sck = 1 →
    exec .txWaitRise s =
      .next { s with pins := { s.pins with miso := some (s.tx.shift.extractLsb' 7 1) },
                     log := s.log ++ [.emit (s.tx.shift.extractLsb' 7 1)],
                     tx := { s.tx with shift := s.tx.shift <<< 1, bits := s.tx.bits - 1, state := 4 } }) ∧
  (∀ s : State, s.TxOn → s.tx.state.toNat < 5 → s.tx.state ≠ 3 ∨ s.pins.sck = 0 → exec .txWaitRise s = .next s) ∧
  (∀ s : State, s.TxOn → s.tx.state = 4 → s.pins.sck = 0 → s.tx.bits = 0 →
    exec .txWaitFall s = .next { s with tx := { s.tx with state := 2 } }) ∧
  (∀ s : State, s.TxOn → s.tx.state = 4 → s.pins.sck = 0 → s.tx.bits ≠ 0 →
    exec .txWaitFall s = .next { s with tx := { s.tx with state := 3 } }) ∧
  (∀ s : State, s.TxOn → s.tx.state.toNat < 5 → s.tx.state ≠ 4 ∨ s.pins.sck = 1 → exec .txWaitFall s = .next s)

/-- 41_output_shifter.md R130: a TX step changes nothing unless TX is on (so never on a device without a data-out pin); it writes
only TX's registers, CH_TXIN by taking its oldest word, PIN.miso and LOG (and FAULT on a reserved code); every byte of memory reads
as before; and what it writes (the level driven and the events logged among it) depends on TX's registers, chip-select, the clock
and CH_TXIN alone (with the conditions it is enabled under). -/
def Obligations.TxTouchesOnlyItsOwn : Prop :=
  (∀ (i : Instr) (s t : State), i.agent = .tx → exec i s = .next t →
    (¬ s.TxOn → t = s) ∧
    t = { s with tx := t.tx, ch := { s.ch with txin := t.ch.txin }, pins := { s.pins with miso := t.pins.miso },
                 log := t.log, fault := t.fault } ∧
    t.tx.active = s.tx.active ∧
    (t.ch.txin = s.ch.txin ∨ ∃ w, s.ch.txin = w :: t.ch.txin) ∧
    (t.log = s.log ∨ ∃ b, t.log = s.log ++ [.emit b]) ∧
    (∀ a, t.memRead a = s.memRead a)) ∧
  (∀ (i : Instr) (s s' t t' : State), i.agent = .tx →
    s'.tx = s.tx → s'.pins.cs = s.pins.cs → s'.pins.sck = s.pins.sck →
    s'.ch.txin = s.ch.txin → s'.life = s.life → s'.fault = s.fault → s'.cfg.duplex = s.cfg.duplex →
    exec i s = .next t → exec i s' = .next t' →
      t'.tx = t.tx ∧ t'.ch.txin = t.ch.txin ∧ t'.fault = t.fault ∧
      ∃ (driven : Option Level) (events : List Event),
        t.pins.miso = (driven.orElse fun _ => s.pins.miso) ∧ t'.pins.miso = (driven.orElse fun _ => s'.pins.miso) ∧
        t.log = s.log ++ events ∧ t'.log = s'.log ++ events)

/-- 10_state.md R42, 41_output_shifter.md R137: the three input pins are written only by the master's steps, PIN.miso only by
TX.WAIT_RISE (and by CONSTRUCT, which leaves it UNDRIVEN). -/
def Obligations.PinsHaveOneWriterEach : Prop :=
  ∀ (i : Instr) (s t : State), exec i s = .next t →
    (t.pins.cs ≠ s.pins.cs → ∃ v, i = .wireCs v) ∧
    (t.pins.sck ≠ s.pins.sck → ∃ v, i = .wireSck v) ∧
    (t.pins.mosi ≠ s.pins.mosi → ∃ v, i = .wireMosi v) ∧
    (t.pins.miso ≠ s.pins.miso →
      (i = .txWaitRise ∧ t.pins.miso ≠ none) ∨ ((∃ k c b x p cb q, i = .construct k c b x p cb q) ∧ t.pins.miso = none))

/-! ## Copy engines and control primitives -/

/-- 42_copy_engines.md R151: the byte goes to `(RDE.dst + RDE.idx) mod 2^32`, every other byte of memory reads as before, and
nothing else changes but CH_RXOUT, RDE.idx and LOG; the step holds where it is not enabled. Memory is in its canonical form, which
every step keeps (`StoreInvKept`). -/
def Obligations.RdeXferCopiesOneByte : Prop :=
  (∀ (s : State) (w : Word) (rest : List Word),
    s.Sound → s.rde.active = true → s.rde.idx.toNat < s.rde.count.toNat → s.ch.rxout = w :: rest → s.mem.wf = true →
      ∃ t, exec .rdeXfer s = .next t ∧
        t.memRead (s.rde.dst + s.rde.idx) = w.extractLsb' 0 8 ∧
        (∀ a, a ≠ s.rde.dst + s.rde.idx → t.memRead a = s.memRead a) ∧
        t = { s with ch := { s.ch with rxout := rest }, rde := { s.rde with idx := s.rde.idx + 1 },
                     log := s.log ++ [.memw (s.rde.dst + s.rde.idx) (w.extractLsb' 0 8)], mem := t.mem }) ∧
  (∀ s : State,
    ¬ s.Sound ∨ s.rde.active = false ∨ s.rde.count.toNat ≤ s.rde.idx.toNat ∨ s.ch.rxout = [] →
      exec .rdeXfer s = .next s)

/-- 42_copy_engines.md R152 to R154, R156 to R158, the effect of each primitive under its own code on a live device, which is how it
acts in the step that performs it (the machine never takes it alone; log entry 9); on a device without a data-out pin there is no WRE
and its primitives do nothing (10_state.md R32; log entry 11). A count above the length of the data is taken as given (R156); the
byte that WRE.XFER feeds past the end of the data is not stated, and some byte is fed (the model's free value, log entry 20). -/
def Obligations.EnginePrimitives : Prop :=
  (∀ (s : State) (d : Addr) (n : Word), s.Sound →
    exec (.rdeConfig d n) s = .next { s with rde := ⟨s.rde.active, d, n, 0⟩ }) ∧
  (∀ s : State, s.Sound → exec .rdeActivate s = .next { s with rde := { s.rde with active := true } }) ∧
  (∀ s : State, s.Sound → exec .rdeDeactivate s = .next { s with rde := { s.rde with active := false } }) ∧
  (∀ (s : State) (data : List Byte) (n : Word), s.Sound → s.cfg.duplex = true →
    exec (.wreConfig data n) s = .next { s with wre := ⟨s.wre.active, true, data, n, 0⟩ }) ∧
  (∀ s : State, s.Sound → s.cfg.duplex = true → s.wre.active = true → s.wre.idx.toNat < s.wre.count.toNat →
    s.ch.txin.length < s.params.depth → s.wre.data.length ≤ s.wre.idx.toNat →
    ∃ (b : Byte) (d : Nat), exec .wreXfer s =
      .next { s with ch := { s.ch with txin := s.ch.txin ++ [b.setWidth 32] }, wre := { s.wre with idx := s.wre.idx + 1 },
                     draws := d }) ∧
  (∀ s : State, s.Sound → s.cfg.duplex = true →
    exec .wreActivate s = .next { s with wre := { s.wre with active := true } }) ∧
  (∀ s : State, s.Sound → s.cfg.duplex = true →
    exec .wreDeactivate s = .next { s with wre := { s.wre with active := false } }) ∧
  (∀ (i : Instr) (s : State), s.cfg.duplex = false →
    (∃ data n, i = .wreConfig data n) ∨ i = .wreActivate ∨ i = .wreDeactivate → exec i s = .next s)

/-- 42_copy_engines.md R155: one byte of WRE.data to CH_TXIN; held without a data-out pin, while WRE is inactive or done, and while
CH_TXIN is full. -/
def Obligations.WreXferFeedsOneByte : Prop :=
  (∀ (s : State) (b : Byte),
    s.Sound → s.cfg.duplex = true → s.wre.active = true → s.wre.idx.toNat < s.wre.count.toNat →
    s.ch.txin.length < s.params.depth → s.wre.data[s.wre.idx.toNat]? = some b →
      exec .wreXfer s =
        .next { s with ch := { s.ch with txin := s.ch.txin ++ [b.setWidth 32] },
                       wre := { s.wre with idx := s.wre.idx + 1 } }) ∧
  (∀ s : State,
    ¬ s.Sound ∨ s.cfg.duplex = false ∨ s.wre.active = false ∨ s.wre.count.toNat ≤ s.wre.idx.toNat ∨
    s.params.depth ≤ s.ch.txin.length → exec .wreXfer s = .next s)

/-- 42_copy_engines.md R159, R160, R161, the effect of each primitive under its own code on a live device, which is how it acts in the
step that performs it (the machine never takes it alone; log entry 9); on a device without a data-out pin there is no TX and its
primitives do nothing (10_state.md R26; log entry 11). -/
def Obligations.SequencerPrimitives : Prop :=
  (∀ s : State, s.Sound →
    exec (.seqDeactivate .rx) s = .next { s with rx := { s.rx with active := false } } ∧
    exec (.seqRestart .rx) s = .next { s with rx := ⟨0, 0, 0, 0, s.rx.active⟩ } ∧
    exec (.seqActivate .rx) s = .next { s with rx := { s.rx with active := true } }) ∧
  (∀ s : State, s.Sound → s.cfg.duplex = true →
    exec (.seqDeactivate .tx) s = .next { s with tx := { s.tx with active := false } } ∧
    exec (.seqRestart .tx) s = .next { s with tx := ⟨0, 0, 0, s.tx.active⟩ } ∧
    exec (.seqActivate .tx) s = .next { s with tx := { s.tx with active := true } }) ∧
  (∀ s : State, s.cfg.duplex = false →
    exec (.seqDeactivate .tx) s = .next s ∧ exec (.seqRestart .tx) s = .next s ∧ exec (.seqActivate .tx) s = .next s)

/-- 42_copy_engines.md R162 to R165, the effect of each primitive under its own code on a live device, which is how it acts in the step
that performs it (the machine never takes it alone; log entry 9), for every channel; the value that CH.GET and CH.EMPTY return stands
in the model's `ret` (log entry 10). The channel named and no other changes. -/
def Obligations.ChannelPrimitives : Prop :=
  ∀ (c : Channel) (s : State), s.Sound →
    (∃ t, exec (.chFlush c) s = .next t ∧ t.chan c = [] ∧
      (∀ c', c' ≠ c → t.chan c' = s.chan c') ∧ t = { s with ch := t.ch }) ∧
    (∀ w, (s.chan c).length < s.params.depth →
      ∃ t, exec (.chPut c w) s = .next t ∧ t.chan c = s.chan c ++ [w] ∧
        (∀ c', c' ≠ c → t.chan c' = s.chan c') ∧ t = { s with ch := t.ch }) ∧
    (∀ w, s.params.depth ≤ (s.chan c).length → exec (.chPut c w) s = .next s) ∧
    (∀ w rest, s.chan c = w :: rest →
      ∃ t, exec (.chGet c) s = .next t ∧ t.chan c = rest ∧
        (∀ c', c' ≠ c → t.chan c' = s.chan c') ∧ t = { s with ch := t.ch, ret := .word w }) ∧
    (s.chan c = [] → exec (.chGet c) s = .next s) ∧
    exec (.chEmpty c) s = .next { s with ret := .truth (decide (s.chan c = [])) }

/-- 20_memory.md R60, R61, 42_copy_engines.md R151: no step of any agent changes a byte of memory but RDE.XFER, and that one only the
byte at `(RDE.dst + RDE.idx) mod 2^32` while it has bytes left to copy. That no other step stores to memory is the model's choice: the
host's own stores (20_memory.md R75) are no steps (log entry 25). -/
def Obligations.OnlyRdeWritesMemory : Prop :=
  ∀ (i : Instr) (s t : State) (a : Addr),
    s.mem.wf = true → exec i s = .next t → t.memRead a ≠ s.memRead a →
      i = .rdeXfer ∧ a = s.rde.dst + s.rde.idx ∧ s.rde.active = true ∧ s.rde.idx.toNat < s.rde.count.toNat

/-- 42_copy_engines.md R167, 20_memory.md R61: over any run of steps of any agents in any order with no ARM and no CONSTRUCT, only
bytes of `[RDE.dst + RDE.idx, RDE.dst + RDE.count)` change, and at most as many bytes are written as RDE had left to copy. That a
run stores to memory by RDE.XFER alone is the model's choice: the host's own stores (20_memory.md R75) are no steps of it (log entry
25). -/
def Obligations.RdeStaysInsideItsRegion : Prop :=
  ∀ (is : List Instr) (s t : State),
    (∀ i ∈ is, (∀ k d b m, i ≠ .arm k d b m) ∧ ∀ k c b x p cb q, i ≠ .construct k c b x p cb q) →
    s.mem.wf = true → s.rde.idx.toNat ≤ s.rde.count.toNat → runSteps is s = .next t →
      (∀ a, t.memRead a ≠ s.memRead a →
        s.rde.idx.toNat ≤ (a - s.rde.dst).toNat ∧ (a - s.rde.dst).toNat < s.rde.count.toNat) ∧
      t.rde.dst = s.rde.dst ∧ t.rde.count = s.rde.count ∧
      ∃ new, t.log = s.log ++ new ∧
        (new.filter fun e => match e with | .memw _ _ => true | _ => false).length + s.rde.idx.toNat = t.rde.idx.toNat ∧
        t.rde.idx.toNat ≤ s.rde.count.toNat

/-! ## Arming -/

/-- 42_copy_engines.md R166 phase A1, 00_scope.md R7, 60_exceptions.md R302 to R304, R314, R317, R319: the checks of an ARM in their
order, each with no other effect, for the command ARM and for READ, READ_INTO, AS_READ_INTO and ITER_STEP at their ARM (taken under
ARM's code with its operands unread, log entry 3). -/
def Obligations.ArmChecksInOrder : Prop :=
  ∀ (s : State) (t : TaskId) (c : Command) (dst : Addr) (b : Word) (mode : ArmMode),
    (s.TaskFree t ∧ c = .arm dst b mode) ∨ s.TaskAt t c (.arming .a1) →
    (s.life = .unbuilt → exec (.arm t dst b mode) s = .next { s with fault := some .notConstructed }) ∧
    (s.life = .dead → exec (.arm t dst b mode) s = .next { s with fault := some .useAfterDeinit }) ∧
    (s.life = .live → s.sig.waiter ≠ none → exec (.arm t dst b mode) s = .next { s with fault := some .overlapArm }) ∧
    (s.life = .live → s.sig.waiter = none → armBudget s.cfg c < 1 ∨ 2 ^ s.params.w - 2 < armBudget s.cfg c →
      exec (.arm t dst b mode) s = .next { s with fault := some .budgetRange }) ∧
    (s.life = .live → s.sig.waiter = none → 1 ≤ armBudget s.cfg c → armBudget s.cfg c ≤ 2 ^ s.params.w - 2 →
      armMode c = .callback → s.cfg.hasCb = false → Tab.wf .idle s.tasks = true →
        ∃ u, exec (.arm t dst b mode) s = .next u ∧
          u = { s with tasks := u.tasks, holder := none, log := s.log ++ [.error t .noCallback] } ∧
          ∀ k, u.task k = if k = t then .idle else s.task k)

/-- 42_copy_engines.md R166 phase A1: where its checks pass, one ARM step stops both engines and both sequencers (WRE and TX where the
device has them), flushes every channel and goes on to phase A2; nothing else changes. A read command's phase is taken under ARM's
code with its operands unread (log entry 3). -/
def Obligations.ArmFirstPhaseResets : Prop :=
  ∀ (s : State) (t : TaskId) (c : Command) (dst : Addr) (b : Word) (mode : ArmMode),
    (s.TaskFree t ∧ c = .arm dst b mode) ∨ s.TaskAt t c (.arming .a1) →
    Tab.wf .idle s.tasks = true → s.life = .live → s.sig.waiter = none →
    1 ≤ armBudget s.cfg c → armBudget s.cfg c ≤ 2 ^ s.params.w - 2 → (armMode c = .callback → s.cfg.hasCb = true) →
      ∃ u, exec (.arm t dst b mode) s = .next u ∧
        u = { s with rde := { s.rde with active := false },
                     wre := if s.cfg.duplex then { s.wre with active := false } else s.wre,
                     rx := { s.rx with active := false },
                     tx := if s.cfg.duplex then { s.tx with active := false } else s.tx,
                     ch := ⟨[], [], []⟩, tasks := u.tasks, holder := some t } ∧
        ∀ k, u.task k = if k = t then .busy c (.arming .a2) else s.task k

/-- 42_copy_engines.md R166, R168, 44_facade.md R212 to R215: the seven phases of an ARM, one step each, with nothing in between, from a
task that starts the command ARM or whose read command has reached its ARM. The engines, the sequencers, the channels, the signal,
the outcome and the armed transfer are as the rule leaves them; the stage's repeat count goes down only when WRE is set up and the
count is not -1; then the command returns or is at its next phase; the race window of 20_memory.md R69 is open for this task, with
whether the transfer is in CALLBACK mode (the model's bookkeeping, log entry 12); nothing else changes. A read command's phases are
taken under ARM's code with its operands unread (log entry 3). -/
def Obligations.ArmRunsToCompletion : Prop :=
  ∀ (s : State) (t : TaskId) (c : Command) (dst : Addr) (b : Word) (mode : ArmMode),
    (s.TaskFree t ∧ c = .arm dst b mode) ∨ s.TaskAt t c (.arming .a1) →
    Tab.wf .idle s.tasks = true → s.life = .live → s.sig.waiter = none → s.params.w ≤ 32 → 1 ≤ s.params.depth →
    1 ≤ armBudget s.cfg c → armBudget s.cfg c ≤ 2 ^ s.params.w - 2 → (armMode c = .callback → s.cfg.hasCb = true) →
      ∃ u, runSteps (List.replicate 7 (.arm t dst b mode)) s = .next u ∧
        u.rde = ⟨true, armDst s.cfg c, BitVec.ofNat 32 (armBudget s.cfg c), 0⟩ ∧
        u.rx = ⟨0, 0, 0, 0, true⟩ ∧
        u.tx = (if s.cfg.duplex then ⟨0, 0, 0, true⟩ else s.tx) ∧
        u.ch = ⟨[BitVec.ofNat 32 (armBudget s.cfg c)], [], []⟩ ∧
        u.xfer = ⟨some (BitVec.ofNat 32 (armBudget s.cfg c)), armDst s.cfg c, decide (armMode c = ArmMode.callback)⟩ ∧
        (s.cfg.duplex = true ∧ s.stg.present = true ∧ s.stg.reps ≠ 0 →
          u.wre = ⟨true, true, s.stg.bytes, BitVec.ofNat 32 (min (armBudget s.cfg c) s.stg.bytes.length), 0⟩ ∧
          u.stg = { s.stg with reps := if s.stg.reps > 0 then s.stg.reps - 1 else s.stg.reps }) ∧
        (s.cfg.duplex = true → ¬ (s.stg.present = true ∧ s.stg.reps ≠ 0) →
          u.wre = { s.wre with active := false, cfg := false } ∧ u.stg = s.stg) ∧
        (s.cfg.duplex = false → u.wre = { s.wre with cfg := false } ∧ u.stg = s.stg) ∧
        (∀ k, u.task k = if k = t then (match afterArm c with | none => .idle | some p => .busy c p) else s.task k) ∧
        u.holder = (match afterArm c with | none => none | some _ => some t) ∧
        u = { s with rde := u.rde, rx := u.rx, tx := u.tx, ch := u.ch, xfer := u.xfer, wre := u.wre, stg := u.stg,
                     tasks := u.tasks, holder := u.holder, outcome := none, sig := ⟨false, none⟩,
                     window := some ⟨t, decide (armMode c = ArmMode.callback)⟩, deferOwn := false }

/-- 42_copy_engines.md R166 phase A7, R163: the hand-over of the budget holds while CH_RXIN is full (taken under ARM's code with its
operands unread, log entry 3). 70_reset_and_hazards.md R349: with CH_RXIN full and RX inactive the handler is held at H2 for ever,
whatever step is taken. -/
def Obligations.ArmHoldsOnFullChannel : Prop :=
  (∀ (s : State) (t : TaskId) (c : Command) (dst : Addr) (b : Word) (mode : ArmMode),
    s.TaskAt t c (.arming .a7) → s.params.depth ≤ s.ch.rxin.length → exec (.arm t dst b mode) s = .next s) ∧
  (∀ (is : List Instr) (s t : State),
    s.eotPhase = 2 → s.rx.active = false → s.params.depth ≤ s.ch.rxin.length → runSteps is s = .next t →
      t.eotPhase = 2 ∧ t.rx.active = false ∧ t.ch.rxin = s.ch.rxin)

/-! ## Edge detector and handler -/

/-- 46_wire_master.md R260 with 43_end_of_transfer.md R180: chip-select takes the level, and a deassertion edge (0 to 1) latches
IRQ.pending while the interrupt is bound and the device is live; no other write of the pin changes the latch. CSDET.EDGE under its own
code has the effect it has in WIRE.CS (the machine never takes it alone; log entry 9). -/
def Obligations.ChipSelectEdgeLatches : Prop :=
  (∀ (s : State) (v : Level), s.fault = none →
    exec (.wireCs v) s =
      .next { s with pins := { s.pins with cs := v },
                     irq := { s.irq with pending :=
                       if s.pins.cs = 0 ∧ v = 1 ∧ s.irq.bound = true ∧ s.life = .live then true else s.irq.pending } }) ∧
  (∀ (s : State) (o n : Level),
    exec (.csdetEdge o n) s =
      .next { s with irq := { s.irq with pending :=
        if o = 0 ∧ n = 1 ∧ s.irq.bound = true ∧ s.life = .live ∧ s.fault = none then true else s.irq.pending } })

/-- 43_end_of_transfer.md R182, R183, R184, R185, 60_exceptions.md R320: entry into the handler, which saves nothing, and its first
three phases; H2 holds on a full CH_RXIN; H3 finds a word or takes the spurious path, which returns. At another phase each of them
holds. -/
def Obligations.HandlerStopsAndChecks : Prop :=
  (∀ s : State, s.Sound → s.irq.bound = true → s.irq.pending = true → s.eotPhase = 0 →
    exec .eotEntry s = .next { s with irq := { s.irq with pending := false }, eotPhase := 1 }) ∧
  (∀ s : State, s.Sound → s.eotPhase.toNat < 8 → s.irq.bound = false ∨ s.irq.pending = false ∨ s.eotPhase ≠ 0 →
    exec .eotEntry s = .next s) ∧
  (∀ s : State, s.Sound → s.eotPhase = 1 →
    exec .eotStopEngines s =
      .next { s with rde := { s.rde with active := false },
                     wre := if s.cfg.duplex then { s.wre with active := false } else s.wre, eotPhase := 2 }) ∧
  (∀ s : State, s.Sound → s.eotPhase = 2 → s.ch.rxin.length < s.params.depth →
    exec .eotPlaceholder s = .next { s with ch := { s.ch with rxin := s.ch.rxin ++ [0] }, eotPhase := 3 }) ∧
  (∀ s : State, s.Sound → s.eotPhase = 2 → s.params.depth ≤ s.ch.rxin.length → exec .eotPlaceholder s = .next s) ∧
  (∀ s : State, s.Sound → s.eotPhase = 3 → s.ch.rxout = [] →
    exec .eotCheck s = .next { s with log := s.log ++ [.spurious], eotPhase := 0 }) ∧
  (∀ s : State, s.Sound → s.eotPhase = 3 → s.ch.rxout ≠ [] → exec .eotCheck s = .next { s with eotPhase := 4 }) ∧
  (∀ s : State, s.Sound → s.eotPhase.toNat < 8 →
    (s.eotPhase ≠ 1 → exec .eotStopEngines s = .next s) ∧ (s.eotPhase ≠ 2 → exec .eotPlaceholder s = .next s) ∧
    (s.eotPhase ≠ 3 → exec .eotCheck s = .next s))

/-- 43_end_of_transfer.md R186: the word at the head of CH_RXOUT is the report; SENTINEL stands for the whole budget, any other v
for the exact difference, which may be negative. At another phase the step holds. -/
def Obligations.HandlerAccounts : Prop :=
  (∀ s : State, s.Sound → s.eotPhase.toNat < 8 → s.eotPhase ≠ 4 → exec .eotAccount s = .next s) ∧
  ∀ (s : State) (b v : Word) (rest : List Word),
    s.Sound → s.eotPhase = 4 → s.ch.rxout = v :: rest → s.xfer.b = some b → s.params.w ≤ 32 →
      (v.toNat = 2 ^ s.params.w - 1 →
        exec .eotAccount s =
          .next { s with ch := { s.ch with rxout := rest }, outcome := some (b.toNat : Int), eotPhase := 5 }) ∧
      (v.toNat ≠ 2 ^ s.params.w - 1 →
        exec .eotAccount s =
          .next { s with ch := { s.ch with rxout := rest }, outcome := some ((b.toNat : Int) - v.toNat), eotPhase := 5 })

/-- 43_end_of_transfer.md R187, R188, R189, 60_exceptions.md R308, R321: both sequencers stop, the signal is set, and the last phase
schedules the callback if the transfer asked for one (F_CALLBACK_OVERRUN, code 0x16, if an earlier one has not run) and returns. At another phase each of them holds. -/
def Obligations.HandlerSignalsAndReturns : Prop :=
  (∀ s : State, s.Sound → s.eotPhase = 5 →
    exec .eotStopSeq s =
      .next { s with rx := { s.rx with active := false },
                     tx := if s.cfg.duplex then { s.tx with active := false } else s.tx, eotPhase := 6 }) ∧
  (∀ s : State, s.Sound → s.eotPhase = 6 →
    exec .eotSignal s = .next { s with sig := { s.sig with flag := true }, eotPhase := 7 }) ∧
  (∀ (s : State) (n : Int), s.Sound → s.eotPhase = 7 → s.xfer.cbReq = true → s.defer = none → s.outcome = some n →
    exec .eotCallback s = .next { s with defer := some n, eotPhase := 0, deferOwn := true }) ∧
  (∀ (s : State) (n : Int), s.Sound → s.eotPhase = 7 → s.xfer.cbReq = true → s.defer = some n →
    exec .eotCallback s = .next { s with fault := some .callbackOverrun }) ∧
  (∀ s : State, s.Sound → s.eotPhase = 7 → s.xfer.cbReq = false → exec .eotCallback s = .next { s with eotPhase := 0 }) ∧
  (∀ s : State, s.Sound → s.eotPhase.toNat < 8 →
    (s.eotPhase ≠ 5 → exec .eotStopSeq s = .next s) ∧ (s.eotPhase ≠ 6 → exec .eotSignal s = .next s) ∧
    (s.eotPhase ≠ 7 → exec .eotCallback s = .next s)) ∧
  faultNumber .callbackOverrun = 0x16

/-- 43_end_of_transfer.md R190, the handler's count law, for the frame of a well-formed master: RX and RDE step as soon as they can,
then the handler, and TX and WRE take any steps anywhere among them. Whatever the bytes and whatever bits follow the last complete
one, the outcome is the number of complete bytes, or the budget if more were clocked; the receive region holds the first of them, in
order, and no other byte of memory changed; the signal is set and the handler is idle. For every W and every FIFO_DEPTH of
00_scope.md R6. On a device without a data-out pin, with no step of host context waiting, the run is one of the PRIO schedule
(70_reset_and_hazards.md R343). That memory changes by RDE.XFER alone is the model's choice (log entry 25). -/
def Obligations.HandlerCountLaw : Prop :=
  (∀ (s : State) (b : Word) (bytes : List Byte) (tail : List Level) (is : List Instr),
    ReadyForFrame s b → s.mem.wf = true → tail.length < 8 → s.tx.state.toNat < 5 →
    (is.filter fun i => i.agent != Agent.tx && i.agent != Agent.wre) = frameSteps bytes tail →
      ∃ t, runSteps is s = .next t ∧
        t.outcome = some ((min bytes.length b.toNat : Nat) : Int) ∧
        (∀ (k : Nat) (x : Byte), k < b.toNat → bytes[k]? = some x → t.memRead (s.xfer.dst + BitVec.ofNat 32 k) = x) ∧
        (∀ a : Addr, min bytes.length b.toNat ≤ (a - s.xfer.dst).toNat → t.memRead a = s.memRead a) ∧
        t.sig.flag = true ∧ t.eotPhase = 0 ∧ t.fault = none ∧ t.rx.active = false ∧ t.rde.active = false) ∧
  (∀ (s : State) (b : Word) (bytes : List Byte) (tail : List Level),
    ReadyForFrame s b → tail.length < 8 → s.cfg.duplex = false → s.sig.flag = false →
    s.holder = none ∨ (∃ t, s.holder = some t ∧ s.task t = .spin) → prioRun (frameSteps bytes tail) s = true)

/-! ## Host commands -/

/-- 44_facade.md R210, 10_state.md R52, 60_exceptions.md R313 to R315, R319: CONSTRUCT's checks, and the device it leaves, for every
configuration. -/
def Obligations.ConstructBuildsTheDevice : Prop :=
  ∀ (s : State) (t : TaskId) (cap : Option Nat) (buf : Addr) (index : Nat) (pins : PinIds) (cb : Option Nat) (irq : IrqMode),
    s.TaskFree t →
      (s.life = .dead →
        exec (.construct t cap buf index pins cb irq) s = .next { s with fault := some .useAfterDeinit }) ∧
      (s.life = .live → exec (.construct t cap buf index pins cb irq) s = .next { s with fault := some .reconstruct }) ∧
      (s.life = .unbuilt → irq = .hard →
        exec (.construct t cap buf index pins cb irq) s = .next { s with fault := some .hardIrq }) ∧
      (s.life = .unbuilt → irq = .soft →
        exec (.construct t cap buf index pins cb irq) s =
          .next { s with rx := ⟨0, 0, 0, 0, false⟩, tx := ⟨0, 0, 0, false⟩, ch := ⟨[], [], []⟩, rde := ⟨false, 0, 0, 0⟩,
                         wre := ⟨false, false, [], 0, 0⟩, stg := ⟨false, [], 0⟩, xfer := ⟨none, 0, false⟩, outcome := none,
                         sig := ⟨false, none⟩, defer := none, irq := ⟨true, false⟩, eotPhase := 0,
                         pins := { s.pins with miso := none }, life := .live, fault := none, log := [], tasks := [],
                         holder := none, window := none, deferOwn := false,
                         cfg := ⟨cap, buf, index, pins, decide (pins.miso ≠ none), decide (cb ≠ none), cb, irq⟩ })

/-- 44_facade.md R211, 60_exceptions.md R306, R307, R319: WRITE's checks, and the stage it leaves: the `len` bytes of memory from
`src` on, addresses modulo 2^32. Where some of these bytes are in the race window of 20_memory.md R69 the bytes copied are not
stated, but their number and the rest are (log entry 13). -/
def Obligations.WriteStagesACopy : Prop :=
  ∀ (s : State) (t : TaskId) (src : Addr) (len : Nat) (repeats : Int), s.TaskFree t → s.life = .live →
    (s.cfg.duplex = false → exec (.write t src len repeats) s = .next { s with fault := some .noDataOut }) ∧
    (s.cfg.duplex = true → repeats < -1 →
      exec (.write t src len repeats) s = .next { s with fault := some .repeatsRange }) ∧
    (s.cfg.duplex = true → -1 ≤ repeats → Tab.wf .idle s.tasks = true →
      (∃ u, exec (.write t src len repeats) s = .next u ∧ u.stg.bytes.length = len ∧
        u = { s with stg := ⟨true, u.stg.bytes, repeats⟩, draws := u.draws }) ∧
      ((∀ k, k < len → s.raced (src + BitVec.ofNat 32 k) = false) →
        exec (.write t src len repeats) s =
          .next { s with stg := ⟨true, (List.range len).map fun k => s.memRead (src + BitVec.ofNat 32 k), repeats⟩ }))

/-- 44_facade.md R212, R215, R219, 60_exceptions.md R310, R316: the phases of READ and ITER_STEP that are their own: P0, which starts the
command or returns ERR_NO_BUFFER; READ's spin, a step of its own before SIG.POLL (the model's choice, log entry 4); and the return of
the view of the device's buffer, F_COUNT_NEGATIVE on a negative count. Later phases are taken under the command's code (log entry
3). -/
def Obligations.BufferReadsStartAndReturn : Prop :=
  (∀ (s : State) (t : TaskId) (i : Instr) (c : Command),
    (i = .read t ∧ c = .read) ∨ (i = .iterStep t ∧ c = .iterStep) →
    s.TaskFree t → s.life = .live → Tab.wf .idle s.tasks = true →
      (s.cfg.cap = none → exec i s = .next { s with log := s.log ++ [.error t .noBuffer] }) ∧
      (s.cfg.cap ≠ none →
        ∃ u, exec i s = .next u ∧ u = { s with tasks := u.tasks, holder := some t } ∧
          ∀ k, u.task k = if k = t then .busy c (.arming .a1) else s.task k)) ∧
  (∀ (s : State) (t : TaskId), s.TaskAt t .read .spinning → Tab.wf .idle s.tasks = true →
    ∃ u, exec (.read t) s = .next u ∧ u = { s with tasks := u.tasks } ∧
      ∀ k, u.task k = if k = t then .spin else s.task k) ∧
  (∀ (s : State) (t : TaskId) (i : Instr) (c : Command) (n : Int),
    (i = .read t ∧ c = .read) ∨ (i = .iterStep t ∧ c = .iterStep) →
    s.TaskAt t c (.returning n) → Tab.wf .idle s.tasks = true →
      (n < 0 → exec i s = .next { s with fault := some .countNegative }) ∧
      (0 ≤ n →
        ∃ u, exec i s = .next u ∧
          u = { s with tasks := u.tasks, holder := none, log := s.log ++ [.result t (.view s.cfg.buf n.toNat)] } ∧
          ∀ k, u.task k = if k = t then .idle else s.task k))

/-- 44_facade.md R213, R214, 60_exceptions.md R317: the phases of READ_INTO and AS_READ_INTO that are their own: P0, with
ERR_NO_CALLBACK for READ_INTO; READ_INTO's return, with nothing logged; AS_READ_INTO's return of the count, even if negative. Later
phases are taken under the command's code with its operands unread (log entry 3). -/
def Obligations.CallerReadsStartAndReturn : Prop :=
  (∀ (s : State) (t : TaskId) (dst : Addr) (len : Nat),
    s.TaskFree t → s.life = .live → Tab.wf .idle s.tasks = true →
      (s.cfg.hasCb = false →
        exec (.readInto t dst len) s = .next { s with log := s.log ++ [.error t .noCallback] }) ∧
      (s.cfg.hasCb = true →
        ∃ u, exec (.readInto t dst len) s = .next u ∧ u = { s with tasks := u.tasks, holder := some t } ∧
          ∀ k, u.task k = if k = t then .busy (.readInto dst len) (.arming .a1) else s.task k) ∧
      ∃ u, exec (.asReadInto t dst len) s = .next u ∧ u = { s with tasks := u.tasks, holder := some t } ∧
        ∀ k, u.task k = if k = t then .busy (.asReadInto dst len) (.arming .a1) else s.task k) ∧
  (∀ (s : State) (t : TaskId) (dst dst' : Addr) (len len' : Nat),
    s.TaskAt t (.readInto dst len) .leaving → Tab.wf .idle s.tasks = true →
      ∃ u, exec (.readInto t dst' len') s = .next u ∧ u = { s with tasks := u.tasks, holder := none } ∧
        ∀ k, u.task k = if k = t then .idle else s.task k) ∧
  (∀ (s : State) (t : TaskId) (dst dst' : Addr) (len len' : Nat) (n : Int),
    s.TaskAt t (.asReadInto dst len) (.returning n) → Tab.wf .idle s.tasks = true →
      ∃ u, exec (.asReadInto t dst' len') s = .next u ∧
        u = { s with tasks := u.tasks, holder := none, log := s.log ++ [.result t (.count n)] } ∧
        ∀ k, u.task k = if k = t then .idle else s.task k)

/-- 44_facade.md R216: DEINIT stops every agent, releases the interrupt and leaves the device DEAD, keeping the channels, OUTCOME,
SIG, DEFER and the stage; a second DEINIT leaves the state unchanged; before CONSTRUCT it faults. TX and WRE are those of a device
that has them (`LifeInvKept` says that they never run without a data-out pin). -/
def Obligations.DeinitTearsDown : Prop :=
  (∀ (s : State) (t : TaskId), s.TaskFree t → s.life = .unbuilt →
    exec (.deinit t) s = .next { s with fault := some .notConstructed }) ∧
  (∀ (s : State) (t : TaskId), s.TaskFree t → s.life ≠ .unbuilt → LifeInv s → Tab.wf .idle s.tasks = true →
    exec (.deinit t) s =
      .next { s with rde := { s.rde with active := false }, wre := { s.wre with active := false },
                     rx := { s.rx with active := false }, tx := { s.tx with active := false },
                     irq := ⟨false, false⟩, life := .dead }) ∧
  (∀ (s u : State) (t t' : TaskId), s.TaskFree t → s.TaskFree t' → s.life ≠ .unbuilt → Tab.wf .idle s.tasks = true →
    exec (.deinit t) s = .next u → exec (.deinit t') u = .next u)

/-- 44_facade.md R217, 60_exceptions.md R309: OUTCOME_READ as a command of its own and as a phase of a read command;
F_OUTCOME_UNWRITTEN, code 0x17, where the outcome is ⊥. -/
def Obligations.OutcomeReadReturnsTheCount : Prop :=
  (∀ (s : State) (t : TaskId), s.TaskFree t → s.life = .live → s.outcome = none →
    exec (.outcomeRead t) s = .next { s with fault := some .outcomeUnwritten }) ∧
  (∀ (s : State) (t : TaskId) (n : Int),
    s.TaskFree t → s.life = .live → s.outcome = some n → Tab.wf .idle s.tasks = true →
      exec (.outcomeRead t) s = .next { s with log := s.log ++ [.result t (.count n)] }) ∧
  (∀ (s : State) (t : TaskId) (c : Command), s.TaskAt t c .outcome → s.outcome = none →
    exec (.outcomeRead t) s = .next { s with fault := some .outcomeUnwritten }) ∧
  (∀ (s : State) (t : TaskId) (c : Command) (n : Int),
    s.TaskAt t c .outcome → s.outcome = some n → Tab.wf .idle s.tasks = true →
      ∃ u, exec (.outcomeRead t) s = .next u ∧ u = { s with tasks := u.tasks } ∧
        ∀ k, u.task k = if k = t then .busy c (.returning n) else s.task k) ∧
  faultNumber .outcomeUnwritten = 0x17

/-- 44_facade.md R218, 20_memory.md R68, R69: MEM_READ returns the byte of memory, in every LIFE state, but for the receive region
inside the race window, where it returns some byte and nothing else changes (the byte is the model's free value, log entry 13). -/
def Obligations.MemReadReturnsTheByte : Prop :=
  ∀ (s : State) (t : TaskId) (a : Addr), s.TaskFree t → Tab.wf .idle s.tasks = true →
    ((s.window = none ∨ s.xfer.b = none ∨
        ∃ b, s.xfer.b = some b ∧ b.toNat ≤ (a - s.xfer.dst).toNat) →
      exec (.memRead t a) s = .next { s with log := s.log ++ [.result t (.byte (s.memRead a))] }) ∧
    (∀ b, s.window ≠ none → s.xfer.b = some b → (a - s.xfer.dst).toNat < b.toNat →
      ∃ (x : Byte) (n : Nat), exec (.memRead t a) s = .next { s with log := s.log ++ [.result t (.byte x)], draws := n })

/-- 20_memory.md R69: inside the race window a MEM_READ of the receive region tells nothing of what memory holds: two states that
differ in memory alone log the same byte. R69 says only "any byte", a draw: that the two draws are equal is the model's choice, a free
value that depends on the number of draws before it alone (log entry 13); the window is its bookkeeping (log entry 12). -/
def Obligations.RacedReadTellsNothing : Prop :=
  ∀ (s u u' : State) (m : Memory) (t : TaskId) (a : Addr) (b : Word),
    s.window ≠ none → s.xfer.b = some b → (a - s.xfer.dst).toNat < b.toNat →
    exec (.memRead t a) s = .next u → exec (.memRead t a) { s with mem := m } = .next u' → u'.log = u.log

/-- 44_facade.md R206, 60_exceptions.md R302, R314: the lifecycle checks, made by every command of a free task before anything else. -/
def Obligations.LifecycleChecksComeFirst : Prop :=
  ∀ (i : Instr) (s : State) (t : TaskId), i.agent = .host → i.task? = some t → s.TaskFree t →
    (s.life = .unbuilt → (∀ c b x p cb q, i ≠ .construct t c b x p cb q) → (∀ a, i ≠ .memRead t a) →
      exec i s = .next { s with fault := some .notConstructed }) ∧
    (s.life = .dead → i ≠ .deinit t → (∀ a, i ≠ .memRead t a) →
      exec i s = .next { s with fault := some .useAfterDeinit }) ∧
    faultNumber .notConstructed = 0x10 ∧ faultNumber .useAfterDeinit = 0x1C

/-! ## Contexts -/

/-- 10_state.md R50: (a) while the handler is in a phase no step of host context is enabled; (b) while a task holds the scheduler no
step of another task and no DEFER.RUN is; (d) while the device is not live no step of RX, TX, RDE, WRE or EOT is. A step that is not
enabled changes nothing. ((c) is `FaultStopsEveryAgent`.) 70_reset_and_hazards.md R343: PRIO lets the master step only where no step of
another agent that is still to come has an effect, whatever stands before it in the script (log entry 2). -/
def Obligations.InterleavingRestrictions : Prop :=
  (∀ (i : Instr) (s : State), i.hostContext = true → s.eotPhase ≠ 0 → exec i s = .next s) ∧
  (∀ (i : Instr) (s : State) (t : TaskId),
    i.hostContext = true → s.holder = some t → i.task? ≠ some t → exec i s = .next s) ∧
  (∀ (i : Instr) (s : State),
    i.agent = .rx ∨ i.agent = .tx ∨ i.agent = .rde ∨ i.agent = .wre ∨ i.agent = .eot → s.life ≠ .live → exec i s = .next s) ∧
  (∀ (i j : Instr) (script : List Instr) (s : State),
    i.agent = .master → prio i script s = true → j ∈ script → j.agent ≠ .master → takeStep j s = .next s)

/-! ## Completion signal and deferred callback -/

/-- 45_completion_signal.md R240, R241, R247, 10_state.md R36: SIG.SET and SIG.CLEAR, under their own codes on a live device, write the
flag and nothing else (the machine never takes them alone; log entry 9); of the steps that agents take none raises the flag but
EOT.SIGNAL, and none lowers it but ARM, its consumers SIG.RESUME and SIG.POLL, and CONSTRUCT. -/
def Obligations.FlagWriters : Prop :=
  (∀ s : State, s.Sound → exec .sigSet s = .next { s with sig := { s.sig with flag := true } }) ∧
  (∀ s : State, s.Sound → exec .sigClear s = .next { s with sig := { s.sig with flag := false } }) ∧
  (∀ (i : Instr) (s t : State), takeStep i s = .next t → s.sig.flag = false → t.sig.flag = true → i = .eotSignal) ∧
  (∀ (i : Instr) (s t : State), takeStep i s = .next t → s.sig.flag = true → t.sig.flag = false →
    (∃ k, i = .sigResume k) ∨ (∃ k, i = .sigPoll k) ∨ (∃ k d b m, i = .arm k d b m) ∨
      ∃ k c b x p cb q, i = .construct k c b x p cb q)

/-- 45_completion_signal.md R242, 60_exceptions.md R305: SIG.WAIT parks the task as the one waiter and releases the scheduler, leaving
the flag as it is; F_SECOND_WAITER, code 0x13, if one is parked already; it holds where no command of the task is at its wait. -/
def Obligations.SigWaitParks : Prop :=
  (∀ (s : State) (t : TaskId) (c : Command),
    s.TaskAt t c .waiting → s.sig.waiter = none → Tab.wf .idle s.tasks = true →
      ∃ u, exec (.sigWait t) s = .next u ∧
        u = { s with tasks := u.tasks, holder := none, sig := { s.sig with waiter := some t } } ∧
        ∀ k, u.task k = if k = t then .suspended c else s.task k) ∧
  (∀ (s : State) (t w : TaskId) (c : Command), s.TaskAt t c .waiting → s.sig.waiter = some w →
    exec (.sigWait t) s = .next { s with fault := some .secondWaiter }) ∧
  (∀ (s : State) (t : TaskId), (∀ c, ¬ s.TaskAt t c .waiting) → exec (.sigWait t) s = .next s) ∧
  faultNumber .secondWaiter = 0x13

/-- 45_completion_signal.md R243, R244: on a live device SIG.RESUME wakes the waiter and SIG.POLL ends READ's spin, each consuming the
flag in the same step; while the flag is 0 they hold. A waiter parked at DEINIT is never resumed (44_facade.md R216,
70_reset_and_hazards.md R353): SIG.RESUME holds on a device that is not LIVE (log entry 19). That the race window of 20_memory.md R69
ends when the flag is consumed is the model's bookkeeping (log entry 12). -/
def Obligations.FlagIsConsumedOnce : Prop :=
  (∀ (s : State) (t : TaskId) (c : Command),
    s.fault = none → s.eotPhase = 0 → s.life = .live → s.holder = none → s.sig.waiter = some t → s.sig.flag = true →
    s.task t = .suspended c → Tab.wf .idle s.tasks = true →
      ∃ u, exec (.sigResume t) s = .next u ∧
        u = { s with sig := ⟨false, none⟩, holder := some t, tasks := u.tasks,
                     window := if s.window = some ⟨t, false⟩ then none else s.window } ∧
        ∀ k, u.task k = if k = t then .busy c .outcome else s.task k) ∧
  (∀ (s : State) (t : TaskId),
    s.fault = none → s.eotPhase = 0 → s.holder = some t → s.task t = .spin → s.sig.flag = true →
    Tab.wf .idle s.tasks = true →
      ∃ u, exec (.sigPoll t) s = .next u ∧
        u = { s with sig := { s.sig with flag := false }, tasks := u.tasks,
                     window := if s.window = some ⟨t, false⟩ then none else s.window } ∧
        ∀ k, u.task k = if k = t then .busy .read .outcome else s.task k) ∧
  (∀ (s : State) (t : TaskId), s.sig.flag = false → exec (.sigResume t) s = .next s ∧ exec (.sigPoll t) s = .next s) ∧
  (∀ (s : State) (t : TaskId), s.life ≠ .live → exec (.sigResume t) s = .next s)

/-- 45_completion_signal.md R246: a set that comes before the wait is not lost: the task that reaches SIG.WAIT with the flag already
1 parks and resumes, and the set is consumed. The device is live, as it is while a command is in progress (`LifeInvKept`). -/
def Obligations.SetBeforeWaitIsObserved : Prop :=
  ∀ (s : State) (t : TaskId) (c : Command),
    s.TaskAt t c .waiting → s.life = .live → s.sig.waiter = none → s.sig.flag = true → Tab.wf .idle s.tasks = true →
      ∃ u, runSteps [.sigWait t, .sigResume t] s = .next u ∧ u.task t = .busy c .outcome ∧ u.holder = some t ∧
        u.sig = ⟨false, none⟩ ∧ u.outcome = s.outcome

/-- 45_completion_signal.md R245: DEFER.RUN logs the callback with the count that was scheduled and empties the slot, whatever LIFE
is; it holds while there is no count, a task holds the scheduler, or the handler is in a phase. The race window of 20_memory.md R69
closes if it is a callback transfer's and the count is that transfer's own (the model's bookkeeping, log entry 12). -/
def Obligations.DeferRunCallsBack : Prop :=
  (∀ (s : State) (n : Int), s.fault = none → s.eotPhase = 0 → s.holder = none → s.defer = some n →
    exec .deferRun s =
      .next { s with defer := none, log := s.log ++ [.callback n], deferOwn := false,
                     window := if s.deferOwn = true ∧ s.window.map Window.callback = some true then none else s.window }) ∧
  (∀ s : State, s.defer = none ∨ s.holder ≠ none ∨ s.eotPhase ≠ 0 → exec .deferRun s = .next s)

/-! ## The master -/

/-- 46_wire_master.md R261, R262, R263: the clock and the data-in level; and the sample, which is the emitted bit between an emission
and the next falling edge, and otherwise some level (the model's free value, log entry 14). The level returned stands in the model's
`ret` (log entry 10). -/
def Obligations.MasterDrivesAndSamples : Prop :=
  (∀ (s : State) (v : Level), s.fault = none →
    exec (.wireSck v) s = .next { s with pins := { s.pins with sck := v } } ∧
    exec (.wireMosi v) s = .next { s with pins := { s.pins with mosi := v } }) ∧
  (∀ (s : State) (v : Level),
    s.fault = none → s.cfg.duplex = true → s.tx.active = true → s.tx.state = 4 → s.pins.miso = some v →
      exec .wireSample s = .next { s with ret := .level v }) ∧
  (∀ s : State, s.fault = none → ∃ (v : Level) (n : Nat), exec .wireSample s = .next { s with ret := .level v, draws := n })

/-! ## Invariants and whole-machine rules -/

/-- Every step of the machine keeps the registers' invariant `RegInv` (30_encoding.md R91 to R93, 40_input_shifter.md R104,
41_output_shifter.md R134, 10_state.md R33), from every state that meets it. -/
def Obligations.RegInvKept : Prop :=
  ∀ s t : State, RegInv s → step s = .next t → RegInv t

/-- Every step of the machine keeps the channels within FIFO_DEPTH and memory and the task table in their canonical form
(10_state.md R30, 20_memory.md R60). -/
def Obligations.StoreInvKept : Prop :=
  ∀ s t : State, StoreInv s → step s = .next t → StoreInv t

/-- Every step of the machine keeps the invariant of the device's life, `LifeInv` (10_state.md R20, R39, R43, R44, 44_facade.md R210,
R216), while the scheduler's invariant holds (`HostInvKept`): no DEINIT comes between the phases of an ARM. -/
def Obligations.LifeInvKept : Prop :=
  ∀ s t : State, LifeInv s → HostInv s → Tab.wf .idle s.tasks = true → step s = .next t → LifeInv t

/-- Every step of the machine keeps the cooperative scheduler's invariant `HostInv` (10_state.md R47, 44_facade.md R205,
45_completion_signal.md R242, R243): one task runs, and it is the holder; at most one waits, and it is the waiter. -/
def Obligations.HostInvKept : Prop :=
  ∀ s t : State, HostInv s → Tab.wf .idle s.tasks = true → step s = .next t → HostInv t

/-- The machine at reset meets every invariant, and is UNBUILT with no fault (70_reset_and_hazards.md R340). The values of the other
elements there are the model's (log entries 5 to 8). -/
def Obligations.ResetMeetsTheInvariants : Prop :=
  RegInv State.reset ∧ StoreInv State.reset ∧ LifeInv State.reset ∧ HostInv State.reset ∧
  State.reset.life = .unbuilt ∧ State.reset.fault = none

/-- 10_state.md R35, R43, R44, R46, R49, 43_end_of_transfer.md R192: over every step of every agent, the parameters never change; CFG
changes and LIFE becomes LIVE only by CONSTRUCT, LIFE becomes DEAD only by DEINIT and never leaves it, and UNBUILT is never entered;
LOG only grows at its end (but for CONSTRUCT, which begins it); OUTCOME gets a value only from EOT.ACCOUNT and loses it only to ARM
and CONSTRUCT. -/
def Obligations.WhatOnlySomeStepsChange : Prop :=
  ∀ (i : Instr) (s t : State), exec i s = .next t →
    t.params = s.params ∧
    (t.cfg ≠ s.cfg → ∃ k c b x p cb q, i = .construct k c b x p cb q) ∧
    (t.life ≠ s.life →
      (s.life = .unbuilt ∧ t.life = .live ∧ ∃ k c b x p cb q, i = .construct k c b x p cb q) ∨
      (s.life = .live ∧ t.life = .dead ∧ ∃ k, i = .deinit k)) ∧
    ((∀ k c b x p cb q, i ≠ .construct k c b x p cb q) → ∃ new, t.log = s.log ++ new) ∧
    (t.outcome ≠ s.outcome →
      (i = .eotAccount ∧ t.outcome ≠ none) ∨
      (t.outcome = none ∧ ((∃ k d b m, i = .arm k d b m) ∨ ∃ k c b x p cb q, i = .construct k c b x p cb q)))
end

