-- ==== Sys2Proof/Laws/Decode.lean ====
section
/-! SUPPORT. Reading back each kind of operand that the encoder writes. -/

namespace Sys2Proof

@[simp] theorem addrOf_toNat (a : Addr) : addrOf a.toNat = a := by simp [addrOf]

@[simp] theorem wordOf_toNat (w : Word) : wordOf w.toNat = some w := by simp [wordOf, w.isLt]

@[simp] theorem levelOf_toNat (v : Level) : levelOf v.toNat = some v := by revert v; decide

@[simp] theorem modeOf_modeNumber (m : ArmMode) : modeOf (modeNumber m) = some m := by cases m <;> rfl

@[simp] theorem natOrNone_optOperand (n : Option Nat) : natOrNone (optOperand n) = some n := by cases n <;> rfl

end Sys2Proof
end

