-- ==== Sys2Proof/Laws/State.lean ====
section
/-! SUPPORT. For each named update of the state, what every field reads after it, so that no proof unfolds a record update. -/

namespace Sys2Proof.Machine

variable (s : State)

/-! `logEvent` -/

@[simp] theorem State.logEvent_rx (e : Event) : (s.logEvent e).rx = s.rx := rfl
@[simp] theorem State.logEvent_tx (e : Event) : (s.logEvent e).tx = s.tx := rfl
@[simp] theorem State.logEvent_ch (e : Event) : (s.logEvent e).ch = s.ch := rfl
@[simp] theorem State.logEvent_rde (e : Event) : (s.logEvent e).rde = s.rde := rfl
@[simp] theorem State.logEvent_wre (e : Event) : (s.logEvent e).wre = s.wre := rfl
@[simp] theorem State.logEvent_stg (e : Event) : (s.logEvent e).stg = s.stg := rfl
@[simp] theorem State.logEvent_xfer (e : Event) : (s.logEvent e).xfer = s.xfer := rfl
@[simp] theorem State.logEvent_outcome (e : Event) : (s.logEvent e).outcome = s.outcome := rfl
@[simp] theorem State.logEvent_sig (e : Event) : (s.logEvent e).sig = s.sig := rfl
@[simp] theorem State.logEvent_defer (e : Event) : (s.logEvent e).defer = s.defer := rfl
@[simp] theorem State.logEvent_irq (e : Event) : (s.logEvent e).irq = s.irq := rfl
@[simp] theorem State.logEvent_eotPhase (e : Event) : (s.logEvent e).eotPhase = s.eotPhase := rfl
@[simp] theorem State.logEvent_pins (e : Event) : (s.logEvent e).pins = s.pins := rfl
@[simp] theorem State.logEvent_life (e : Event) : (s.logEvent e).life = s.life := rfl
@[simp] theorem State.logEvent_cfg (e : Event) : (s.logEvent e).cfg = s.cfg := rfl
@[simp] theorem State.logEvent_fault (e : Event) : (s.logEvent e).fault = s.fault := rfl
@[simp] theorem State.logEvent_log (e : Event) : (s.logEvent e).log = s.log ++ [e] := rfl
@[simp] theorem State.logEvent_tasks (e : Event) : (s.logEvent e).tasks = s.tasks := rfl
@[simp] theorem State.logEvent_holder (e : Event) : (s.logEvent e).holder = s.holder := rfl
@[simp] theorem State.logEvent_mem (e : Event) : (s.logEvent e).mem = s.mem := rfl
@[simp] theorem State.logEvent_params (e : Event) : (s.logEvent e).params = s.params := rfl
@[simp] theorem State.logEvent_window (e : Event) : (s.logEvent e).window = s.window := rfl
@[simp] theorem State.logEvent_deferOwn (e : Event) : (s.logEvent e).deferOwn = s.deferOwn := rfl
@[simp] theorem State.logEvent_ret (e : Event) : (s.logEvent e).ret = s.ret := rfl
@[simp] theorem State.logEvent_sched (e : Event) : (s.logEvent e).sched = s.sched := rfl
@[simp] theorem State.logEvent_draws (e : Event) : (s.logEvent e).draws = s.draws := rfl

/-! `setTask` -/

@[simp] theorem State.setTask_rx (t : TaskId) (x : TaskState) : (s.setTask t x).rx = s.rx := rfl
@[simp] theorem State.setTask_tx (t : TaskId) (x : TaskState) : (s.setTask t x).tx = s.tx := rfl
@[simp] theorem State.setTask_ch (t : TaskId) (x : TaskState) : (s.setTask t x).ch = s.ch := rfl
@[simp] theorem State.setTask_rde (t : TaskId) (x : TaskState) : (s.setTask t x).rde = s.rde := rfl
@[simp] theorem State.setTask_wre (t : TaskId) (x : TaskState) : (s.setTask t x).wre = s.wre := rfl
@[simp] theorem State.setTask_stg (t : TaskId) (x : TaskState) : (s.setTask t x).stg = s.stg := rfl
@[simp] theorem State.setTask_xfer (t : TaskId) (x : TaskState) : (s.setTask t x).xfer = s.xfer := rfl
@[simp] theorem State.setTask_outcome (t : TaskId) (x : TaskState) : (s.setTask t x).outcome = s.outcome := rfl
@[simp] theorem State.setTask_sig (t : TaskId) (x : TaskState) : (s.setTask t x).sig = s.sig := rfl
@[simp] theorem State.setTask_defer (t : TaskId) (x : TaskState) : (s.setTask t x).defer = s.defer := rfl
@[simp] theorem State.setTask_irq (t : TaskId) (x : TaskState) : (s.setTask t x).irq = s.irq := rfl
@[simp] theorem State.setTask_eotPhase (t : TaskId) (x : TaskState) : (s.setTask t x).eotPhase = s.eotPhase := rfl
@[simp] theorem State.setTask_pins (t : TaskId) (x : TaskState) : (s.setTask t x).pins = s.pins := rfl
@[simp] theorem State.setTask_life (t : TaskId) (x : TaskState) : (s.setTask t x).life = s.life := rfl
@[simp] theorem State.setTask_cfg (t : TaskId) (x : TaskState) : (s.setTask t x).cfg = s.cfg := rfl
@[simp] theorem State.setTask_fault (t : TaskId) (x : TaskState) : (s.setTask t x).fault = s.fault := rfl
@[simp] theorem State.setTask_log (t : TaskId) (x : TaskState) : (s.setTask t x).log = s.log := rfl
@[simp] theorem State.setTask_tasks (t : TaskId) (x : TaskState) : (s.setTask t x).tasks = Tab.set .idle s.tasks t x := rfl
@[simp] theorem State.setTask_holder (t : TaskId) (x : TaskState) : (s.setTask t x).holder = s.holder := rfl
@[simp] theorem State.setTask_mem (t : TaskId) (x : TaskState) : (s.setTask t x).mem = s.mem := rfl
@[simp] theorem State.setTask_params (t : TaskId) (x : TaskState) : (s.setTask t x).params = s.params := rfl
@[simp] theorem State.setTask_window (t : TaskId) (x : TaskState) : (s.setTask t x).window = s.window := rfl
@[simp] theorem State.setTask_deferOwn (t : TaskId) (x : TaskState) : (s.setTask t x).deferOwn = s.deferOwn := rfl
@[simp] theorem State.setTask_ret (t : TaskId) (x : TaskState) : (s.setTask t x).ret = s.ret := rfl
@[simp] theorem State.setTask_sched (t : TaskId) (x : TaskState) : (s.setTask t x).sched = s.sched := rfl
@[simp] theorem State.setTask_draws (t : TaskId) (x : TaskState) : (s.setTask t x).draws = s.draws := rfl

/-! `atPhase` -/

@[simp] theorem State.atPhase_rx (t : TaskId) (c : Command) (p : Phase) : (s.atPhase t c p).rx = s.rx := rfl
@[simp] theorem State.atPhase_tx (t : TaskId) (c : Command) (p : Phase) : (s.atPhase t c p).tx = s.tx := rfl
@[simp] theorem State.atPhase_ch (t : TaskId) (c : Command) (p : Phase) : (s.atPhase t c p).ch = s.ch := rfl
@[simp] theorem State.atPhase_rde (t : TaskId) (c : Command) (p : Phase) : (s.atPhase t c p).rde = s.rde := rfl
@[simp] theorem State.atPhase_wre (t : TaskId) (c : Command) (p : Phase) : (s.atPhase t c p).wre = s.wre := rfl
@[simp] theorem State.atPhase_stg (t : TaskId) (c : Command) (p : Phase) : (s.atPhase t c p).stg = s.stg := rfl
@[simp] theorem State.atPhase_xfer (t : TaskId) (c : Command) (p : Phase) : (s.atPhase t c p).xfer = s.xfer := rfl
@[simp] theorem State.atPhase_outcome (t : TaskId) (c : Command) (p : Phase) : (s.atPhase t c p).outcome = s.outcome := rfl
@[simp] theorem State.atPhase_sig (t : TaskId) (c : Command) (p : Phase) : (s.atPhase t c p).sig = s.sig := rfl
@[simp] theorem State.atPhase_defer (t : TaskId) (c : Command) (p : Phase) : (s.atPhase t c p).defer = s.defer := rfl
@[simp] theorem State.atPhase_irq (t : TaskId) (c : Command) (p : Phase) : (s.atPhase t c p).irq = s.irq := rfl
@[simp] theorem State.atPhase_eotPhase (t : TaskId) (c : Command) (p : Phase) : (s.atPhase t c p).eotPhase = s.eotPhase := rfl
@[simp] theorem State.atPhase_pins (t : TaskId) (c : Command) (p : Phase) : (s.atPhase t c p).pins = s.pins := rfl
@[simp] theorem State.atPhase_life (t : TaskId) (c : Command) (p : Phase) : (s.atPhase t c p).life = s.life := rfl
@[simp] theorem State.atPhase_cfg (t : TaskId) (c : Command) (p : Phase) : (s.atPhase t c p).cfg = s.cfg := rfl
@[simp] theorem State.atPhase_fault (t : TaskId) (c : Command) (p : Phase) : (s.atPhase t c p).fault = s.fault := rfl
@[simp] theorem State.atPhase_log (t : TaskId) (c : Command) (p : Phase) : (s.atPhase t c p).log = s.log := rfl
@[simp] theorem State.atPhase_tasks (t : TaskId) (c : Command) (p : Phase) : (s.atPhase t c p).tasks = Tab.set .idle s.tasks t (.busy c p) := rfl
@[simp] theorem State.atPhase_holder (t : TaskId) (c : Command) (p : Phase) : (s.atPhase t c p).holder = some t := rfl
@[simp] theorem State.atPhase_mem (t : TaskId) (c : Command) (p : Phase) : (s.atPhase t c p).mem = s.mem := rfl
@[simp] theorem State.atPhase_params (t : TaskId) (c : Command) (p : Phase) : (s.atPhase t c p).params = s.params := rfl
@[simp] theorem State.atPhase_window (t : TaskId) (c : Command) (p : Phase) : (s.atPhase t c p).window = s.window := rfl
@[simp] theorem State.atPhase_deferOwn (t : TaskId) (c : Command) (p : Phase) : (s.atPhase t c p).deferOwn = s.deferOwn := rfl
@[simp] theorem State.atPhase_ret (t : TaskId) (c : Command) (p : Phase) : (s.atPhase t c p).ret = s.ret := rfl
@[simp] theorem State.atPhase_sched (t : TaskId) (c : Command) (p : Phase) : (s.atPhase t c p).sched = s.sched := rfl
@[simp] theorem State.atPhase_draws (t : TaskId) (c : Command) (p : Phase) : (s.atPhase t c p).draws = s.draws := rfl

/-! `endCommand` -/

@[simp] theorem State.endCommand_rx (t : TaskId) : (s.endCommand t).rx = s.rx := rfl
@[simp] theorem State.endCommand_tx (t : TaskId) : (s.endCommand t).tx = s.tx := rfl
@[simp] theorem State.endCommand_ch (t : TaskId) : (s.endCommand t).ch = s.ch := rfl
@[simp] theorem State.endCommand_rde (t : TaskId) : (s.endCommand t).rde = s.rde := rfl
@[simp] theorem State.endCommand_wre (t : TaskId) : (s.endCommand t).wre = s.wre := rfl
@[simp] theorem State.endCommand_stg (t : TaskId) : (s.endCommand t).stg = s.stg := rfl
@[simp] theorem State.endCommand_xfer (t : TaskId) : (s.endCommand t).xfer = s.xfer := rfl
@[simp] theorem State.endCommand_outcome (t : TaskId) : (s.endCommand t).outcome = s.outcome := rfl
@[simp] theorem State.endCommand_sig (t : TaskId) : (s.endCommand t).sig = s.sig := rfl
@[simp] theorem State.endCommand_defer (t : TaskId) : (s.endCommand t).defer = s.defer := rfl
@[simp] theorem State.endCommand_irq (t : TaskId) : (s.endCommand t).irq = s.irq := rfl
@[simp] theorem State.endCommand_eotPhase (t : TaskId) : (s.endCommand t).eotPhase = s.eotPhase := rfl
@[simp] theorem State.endCommand_pins (t : TaskId) : (s.endCommand t).pins = s.pins := rfl
@[simp] theorem State.endCommand_life (t : TaskId) : (s.endCommand t).life = s.life := rfl
@[simp] theorem State.endCommand_cfg (t : TaskId) : (s.endCommand t).cfg = s.cfg := rfl
@[simp] theorem State.endCommand_fault (t : TaskId) : (s.endCommand t).fault = s.fault := rfl
@[simp] theorem State.endCommand_log (t : TaskId) : (s.endCommand t).log = s.log := rfl
@[simp] theorem State.endCommand_tasks (t : TaskId) : (s.endCommand t).tasks = Tab.set .idle s.tasks t .idle := rfl
@[simp] theorem State.endCommand_holder (t : TaskId) : (s.endCommand t).holder = none := rfl
@[simp] theorem State.endCommand_mem (t : TaskId) : (s.endCommand t).mem = s.mem := rfl
@[simp] theorem State.endCommand_params (t : TaskId) : (s.endCommand t).params = s.params := rfl
@[simp] theorem State.endCommand_window (t : TaskId) : (s.endCommand t).window = s.window := rfl
@[simp] theorem State.endCommand_deferOwn (t : TaskId) : (s.endCommand t).deferOwn = s.deferOwn := rfl
@[simp] theorem State.endCommand_ret (t : TaskId) : (s.endCommand t).ret = s.ret := rfl
@[simp] theorem State.endCommand_sched (t : TaskId) : (s.endCommand t).sched = s.sched := rfl
@[simp] theorem State.endCommand_draws (t : TaskId) : (s.endCommand t).draws = s.draws := rfl

/-! `returnValue` -/

@[simp] theorem State.returnValue_rx (t : TaskId) (v : Value) : (s.returnValue t v).rx = s.rx := rfl
@[simp] theorem State.returnValue_tx (t : TaskId) (v : Value) : (s.returnValue t v).tx = s.tx := rfl
@[simp] theorem State.returnValue_ch (t : TaskId) (v : Value) : (s.returnValue t v).ch = s.ch := rfl
@[simp] theorem State.returnValue_rde (t : TaskId) (v : Value) : (s.returnValue t v).rde = s.rde := rfl
@[simp] theorem State.returnValue_wre (t : TaskId) (v : Value) : (s.returnValue t v).wre = s.wre := rfl
@[simp] theorem State.returnValue_stg (t : TaskId) (v : Value) : (s.returnValue t v).stg = s.stg := rfl
@[simp] theorem State.returnValue_xfer (t : TaskId) (v : Value) : (s.returnValue t v).xfer = s.xfer := rfl
@[simp] theorem State.returnValue_outcome (t : TaskId) (v : Value) : (s.returnValue t v).outcome = s.outcome := rfl
@[simp] theorem State.returnValue_sig (t : TaskId) (v : Value) : (s.returnValue t v).sig = s.sig := rfl
@[simp] theorem State.returnValue_defer (t : TaskId) (v : Value) : (s.returnValue t v).defer = s.defer := rfl
@[simp] theorem State.returnValue_irq (t : TaskId) (v : Value) : (s.returnValue t v).irq = s.irq := rfl
@[simp] theorem State.returnValue_eotPhase (t : TaskId) (v : Value) : (s.returnValue t v).eotPhase = s.eotPhase := rfl
@[simp] theorem State.returnValue_pins (t : TaskId) (v : Value) : (s.returnValue t v).pins = s.pins := rfl
@[simp] theorem State.returnValue_life (t : TaskId) (v : Value) : (s.returnValue t v).life = s.life := rfl
@[simp] theorem State.returnValue_cfg (t : TaskId) (v : Value) : (s.returnValue t v).cfg = s.cfg := rfl
@[simp] theorem State.returnValue_fault (t : TaskId) (v : Value) : (s.returnValue t v).fault = s.fault := rfl
@[simp] theorem State.returnValue_log (t : TaskId) (v : Value) : (s.returnValue t v).log = s.log ++ [.result t v] := rfl
@[simp] theorem State.returnValue_tasks (t : TaskId) (v : Value) : (s.returnValue t v).tasks = Tab.set .idle s.tasks t .idle := rfl
@[simp] theorem State.returnValue_holder (t : TaskId) (v : Value) : (s.returnValue t v).holder = none := rfl
@[simp] theorem State.returnValue_mem (t : TaskId) (v : Value) : (s.returnValue t v).mem = s.mem := rfl
@[simp] theorem State.returnValue_params (t : TaskId) (v : Value) : (s.returnValue t v).params = s.params := rfl
@[simp] theorem State.returnValue_window (t : TaskId) (v : Value) : (s.returnValue t v).window = s.window := rfl
@[simp] theorem State.returnValue_deferOwn (t : TaskId) (v : Value) : (s.returnValue t v).deferOwn = s.deferOwn := rfl
@[simp] theorem State.returnValue_ret (t : TaskId) (v : Value) : (s.returnValue t v).ret = s.ret := rfl
@[simp] theorem State.returnValue_sched (t : TaskId) (v : Value) : (s.returnValue t v).sched = s.sched := rfl
@[simp] theorem State.returnValue_draws (t : TaskId) (v : Value) : (s.returnValue t v).draws = s.draws := rfl

/-! `setChan` -/

@[simp] theorem State.setChan_rx (c : Channel) (ws : List Word) : (s.setChan c ws).rx = s.rx := by cases c <;> rfl
@[simp] theorem State.setChan_tx (c : Channel) (ws : List Word) : (s.setChan c ws).tx = s.tx := by cases c <;> rfl
@[simp] theorem State.setChan_rde (c : Channel) (ws : List Word) : (s.setChan c ws).rde = s.rde := by cases c <;> rfl
@[simp] theorem State.setChan_wre (c : Channel) (ws : List Word) : (s.setChan c ws).wre = s.wre := by cases c <;> rfl
@[simp] theorem State.setChan_stg (c : Channel) (ws : List Word) : (s.setChan c ws).stg = s.stg := by cases c <;> rfl
@[simp] theorem State.setChan_xfer (c : Channel) (ws : List Word) : (s.setChan c ws).xfer = s.xfer := by cases c <;> rfl
@[simp] theorem State.setChan_outcome (c : Channel) (ws : List Word) : (s.setChan c ws).outcome = s.outcome := by cases c <;> rfl
@[simp] theorem State.setChan_sig (c : Channel) (ws : List Word) : (s.setChan c ws).sig = s.sig := by cases c <;> rfl
@[simp] theorem State.setChan_defer (c : Channel) (ws : List Word) : (s.setChan c ws).defer = s.defer := by cases c <;> rfl
@[simp] theorem State.setChan_irq (c : Channel) (ws : List Word) : (s.setChan c ws).irq = s.irq := by cases c <;> rfl
@[simp] theorem State.setChan_eotPhase (c : Channel) (ws : List Word) : (s.setChan c ws).eotPhase = s.eotPhase := by cases c <;> rfl
@[simp] theorem State.setChan_pins (c : Channel) (ws : List Word) : (s.setChan c ws).pins = s.pins := by cases c <;> rfl
@[simp] theorem State.setChan_life (c : Channel) (ws : List Word) : (s.setChan c ws).life = s.life := by cases c <;> rfl
@[simp] theorem State.setChan_cfg (c : Channel) (ws : List Word) : (s.setChan c ws).cfg = s.cfg := by cases c <;> rfl
@[simp] theorem State.setChan_fault (c : Channel) (ws : List Word) : (s.setChan c ws).fault = s.fault := by cases c <;> rfl
@[simp] theorem State.setChan_log (c : Channel) (ws : List Word) : (s.setChan c ws).log = s.log := by cases c <;> rfl
@[simp] theorem State.setChan_tasks (c : Channel) (ws : List Word) : (s.setChan c ws).tasks = s.tasks := by cases c <;> rfl
@[simp] theorem State.setChan_holder (c : Channel) (ws : List Word) : (s.setChan c ws).holder = s.holder := by cases c <;> rfl
@[simp] theorem State.setChan_mem (c : Channel) (ws : List Word) : (s.setChan c ws).mem = s.mem := by cases c <;> rfl
@[simp] theorem State.setChan_params (c : Channel) (ws : List Word) : (s.setChan c ws).params = s.params := by cases c <;> rfl
@[simp] theorem State.setChan_window (c : Channel) (ws : List Word) : (s.setChan c ws).window = s.window := by cases c <;> rfl
@[simp] theorem State.setChan_deferOwn (c : Channel) (ws : List Word) : (s.setChan c ws).deferOwn = s.deferOwn := by cases c <;> rfl
@[simp] theorem State.setChan_ret (c : Channel) (ws : List Word) : (s.setChan c ws).ret = s.ret := by cases c <;> rfl
@[simp] theorem State.setChan_sched (c : Channel) (ws : List Word) : (s.setChan c ws).sched = s.sched := by cases c <;> rfl
@[simp] theorem State.setChan_draws (c : Channel) (ws : List Word) : (s.setChan c ws).draws = s.draws := by cases c <;> rfl

/-! `put` -/

@[simp] theorem State.put_rx (c : Channel) (w : Word) : (s.put c w).rx = s.rx := by cases c <;> rfl
@[simp] theorem State.put_tx (c : Channel) (w : Word) : (s.put c w).tx = s.tx := by cases c <;> rfl
@[simp] theorem State.put_rde (c : Channel) (w : Word) : (s.put c w).rde = s.rde := by cases c <;> rfl
@[simp] theorem State.put_wre (c : Channel) (w : Word) : (s.put c w).wre = s.wre := by cases c <;> rfl
@[simp] theorem State.put_stg (c : Channel) (w : Word) : (s.put c w).stg = s.stg := by cases c <;> rfl
@[simp] theorem State.put_xfer (c : Channel) (w : Word) : (s.put c w).xfer = s.xfer := by cases c <;> rfl
@[simp] theorem State.put_outcome (c : Channel) (w : Word) : (s.put c w).outcome = s.outcome := by cases c <;> rfl
@[simp] theorem State.put_sig (c : Channel) (w : Word) : (s.put c w).sig = s.sig := by cases c <;> rfl
@[simp] theorem State.put_defer (c : Channel) (w : Word) : (s.put c w).defer = s.defer := by cases c <;> rfl
@[simp] theorem State.put_irq (c : Channel) (w : Word) : (s.put c w).irq = s.irq := by cases c <;> rfl
@[simp] theorem State.put_eotPhase (c : Channel) (w : Word) : (s.put c w).eotPhase = s.eotPhase := by cases c <;> rfl
@[simp] theorem State.put_pins (c : Channel) (w : Word) : (s.put c w).pins = s.pins := by cases c <;> rfl
@[simp] theorem State.put_life (c : Channel) (w : Word) : (s.put c w).life = s.life := by cases c <;> rfl
@[simp] theorem State.put_cfg (c : Channel) (w : Word) : (s.put c w).cfg = s.cfg := by cases c <;> rfl
@[simp] theorem State.put_fault (c : Channel) (w : Word) : (s.put c w).fault = s.fault := by cases c <;> rfl
@[simp] theorem State.put_log (c : Channel) (w : Word) : (s.put c w).log = s.log := by cases c <;> rfl
@[simp] theorem State.put_tasks (c : Channel) (w : Word) : (s.put c w).tasks = s.tasks := by cases c <;> rfl
@[simp] theorem State.put_holder (c : Channel) (w : Word) : (s.put c w).holder = s.holder := by cases c <;> rfl
@[simp] theorem State.put_mem (c : Channel) (w : Word) : (s.put c w).mem = s.mem := by cases c <;> rfl
@[simp] theorem State.put_params (c : Channel) (w : Word) : (s.put c w).params = s.params := by cases c <;> rfl
@[simp] theorem State.put_window (c : Channel) (w : Word) : (s.put c w).window = s.window := by cases c <;> rfl
@[simp] theorem State.put_deferOwn (c : Channel) (w : Word) : (s.put c w).deferOwn = s.deferOwn := by cases c <;> rfl
@[simp] theorem State.put_ret (c : Channel) (w : Word) : (s.put c w).ret = s.ret := by cases c <;> rfl
@[simp] theorem State.put_sched (c : Channel) (w : Word) : (s.put c w).sched = s.sched := by cases c <;> rfl
@[simp] theorem State.put_draws (c : Channel) (w : Word) : (s.put c w).draws = s.draws := by cases c <;> rfl

/-! `pop` -/

@[simp] theorem State.pop_rx (c : Channel) : (s.pop c).rx = s.rx := by cases c <;> rfl
@[simp] theorem State.pop_tx (c : Channel) : (s.pop c).tx = s.tx := by cases c <;> rfl
@[simp] theorem State.pop_rde (c : Channel) : (s.pop c).rde = s.rde := by cases c <;> rfl
@[simp] theorem State.pop_wre (c : Channel) : (s.pop c).wre = s.wre := by cases c <;> rfl
@[simp] theorem State.pop_stg (c : Channel) : (s.pop c).stg = s.stg := by cases c <;> rfl
@[simp] theorem State.pop_xfer (c : Channel) : (s.pop c).xfer = s.xfer := by cases c <;> rfl
@[simp] theorem State.pop_outcome (c : Channel) : (s.pop c).outcome = s.outcome := by cases c <;> rfl
@[simp] theorem State.pop_sig (c : Channel) : (s.pop c).sig = s.sig := by cases c <;> rfl
@[simp] theorem State.pop_defer (c : Channel) : (s.pop c).defer = s.defer := by cases c <;> rfl
@[simp] theorem State.pop_irq (c : Channel) : (s.pop c).irq = s.irq := by cases c <;> rfl
@[simp] theorem State.pop_eotPhase (c : Channel) : (s.pop c).eotPhase = s.eotPhase := by cases c <;> rfl
@[simp] theorem State.pop_pins (c : Channel) : (s.pop c).pins = s.pins := by cases c <;> rfl
@[simp] theorem State.pop_life (c : Channel) : (s.pop c).life = s.life := by cases c <;> rfl
@[simp] theorem State.pop_cfg (c : Channel) : (s.pop c).cfg = s.cfg := by cases c <;> rfl
@[simp] theorem State.pop_fault (c : Channel) : (s.pop c).fault = s.fault := by cases c <;> rfl
@[simp] theorem State.pop_log (c : Channel) : (s.pop c).log = s.log := by cases c <;> rfl
@[simp] theorem State.pop_tasks (c : Channel) : (s.pop c).tasks = s.tasks := by cases c <;> rfl
@[simp] theorem State.pop_holder (c : Channel) : (s.pop c).holder = s.holder := by cases c <;> rfl
@[simp] theorem State.pop_mem (c : Channel) : (s.pop c).mem = s.mem := by cases c <;> rfl
@[simp] theorem State.pop_params (c : Channel) : (s.pop c).params = s.params := by cases c <;> rfl
@[simp] theorem State.pop_window (c : Channel) : (s.pop c).window = s.window := by cases c <;> rfl
@[simp] theorem State.pop_deferOwn (c : Channel) : (s.pop c).deferOwn = s.deferOwn := by cases c <;> rfl
@[simp] theorem State.pop_ret (c : Channel) : (s.pop c).ret = s.ret := by cases c <;> rfl
@[simp] theorem State.pop_sched (c : Channel) : (s.pop c).sched = s.sched := by cases c <;> rfl
@[simp] theorem State.pop_draws (c : Channel) : (s.pop c).draws = s.draws := by cases c <;> rfl

/-! `flush` -/

@[simp] theorem State.flush_rx (c : Channel) : (s.flush c).rx = s.rx := by cases c <;> rfl
@[simp] theorem State.flush_tx (c : Channel) : (s.flush c).tx = s.tx := by cases c <;> rfl
@[simp] theorem State.flush_rde (c : Channel) : (s.flush c).rde = s.rde := by cases c <;> rfl
@[simp] theorem State.flush_wre (c : Channel) : (s.flush c).wre = s.wre := by cases c <;> rfl
@[simp] theorem State.flush_stg (c : Channel) : (s.flush c).stg = s.stg := by cases c <;> rfl
@[simp] theorem State.flush_xfer (c : Channel) : (s.flush c).xfer = s.xfer := by cases c <;> rfl
@[simp] theorem State.flush_outcome (c : Channel) : (s.flush c).outcome = s.outcome := by cases c <;> rfl
@[simp] theorem State.flush_sig (c : Channel) : (s.flush c).sig = s.sig := by cases c <;> rfl
@[simp] theorem State.flush_defer (c : Channel) : (s.flush c).defer = s.defer := by cases c <;> rfl
@[simp] theorem State.flush_irq (c : Channel) : (s.flush c).irq = s.irq := by cases c <;> rfl
@[simp] theorem State.flush_eotPhase (c : Channel) : (s.flush c).eotPhase = s.eotPhase := by cases c <;> rfl
@[simp] theorem State.flush_pins (c : Channel) : (s.flush c).pins = s.pins := by cases c <;> rfl
@[simp] theorem State.flush_life (c : Channel) : (s.flush c).life = s.life := by cases c <;> rfl
@[simp] theorem State.flush_cfg (c : Channel) : (s.flush c).cfg = s.cfg := by cases c <;> rfl
@[simp] theorem State.flush_fault (c : Channel) : (s.flush c).fault = s.fault := by cases c <;> rfl
@[simp] theorem State.flush_log (c : Channel) : (s.flush c).log = s.log := by cases c <;> rfl
@[simp] theorem State.flush_tasks (c : Channel) : (s.flush c).tasks = s.tasks := by cases c <;> rfl
@[simp] theorem State.flush_holder (c : Channel) : (s.flush c).holder = s.holder := by cases c <;> rfl
@[simp] theorem State.flush_mem (c : Channel) : (s.flush c).mem = s.mem := by cases c <;> rfl
@[simp] theorem State.flush_params (c : Channel) : (s.flush c).params = s.params := by cases c <;> rfl
@[simp] theorem State.flush_window (c : Channel) : (s.flush c).window = s.window := by cases c <;> rfl
@[simp] theorem State.flush_deferOwn (c : Channel) : (s.flush c).deferOwn = s.deferOwn := by cases c <;> rfl
@[simp] theorem State.flush_ret (c : Channel) : (s.flush c).ret = s.ret := by cases c <;> rfl
@[simp] theorem State.flush_sched (c : Channel) : (s.flush c).sched = s.sched := by cases c <;> rfl
@[simp] theorem State.flush_draws (c : Channel) : (s.flush c).draws = s.draws := by cases c <;> rfl

/-! `flushAll` -/

@[simp] theorem State.flushAll_rx : (s.flushAll).rx = s.rx := rfl
@[simp] theorem State.flushAll_tx : (s.flushAll).tx = s.tx := rfl
@[simp] theorem State.flushAll_ch : (s.flushAll).ch = ⟨[], [], []⟩ := rfl
@[simp] theorem State.flushAll_rde : (s.flushAll).rde = s.rde := rfl
@[simp] theorem State.flushAll_wre : (s.flushAll).wre = s.wre := rfl
@[simp] theorem State.flushAll_stg : (s.flushAll).stg = s.stg := rfl
@[simp] theorem State.flushAll_xfer : (s.flushAll).xfer = s.xfer := rfl
@[simp] theorem State.flushAll_outcome : (s.flushAll).outcome = s.outcome := rfl
@[simp] theorem State.flushAll_sig : (s.flushAll).sig = s.sig := rfl
@[simp] theorem State.flushAll_defer : (s.flushAll).defer = s.defer := rfl
@[simp] theorem State.flushAll_irq : (s.flushAll).irq = s.irq := rfl
@[simp] theorem State.flushAll_eotPhase : (s.flushAll).eotPhase = s.eotPhase := rfl
@[simp] theorem State.flushAll_pins : (s.flushAll).pins = s.pins := rfl
@[simp] theorem State.flushAll_life : (s.flushAll).life = s.life := rfl
@[simp] theorem State.flushAll_cfg : (s.flushAll).cfg = s.cfg := rfl
@[simp] theorem State.flushAll_fault : (s.flushAll).fault = s.fault := rfl
@[simp] theorem State.flushAll_log : (s.flushAll).log = s.log := rfl
@[simp] theorem State.flushAll_tasks : (s.flushAll).tasks = s.tasks := rfl
@[simp] theorem State.flushAll_holder : (s.flushAll).holder = s.holder := rfl
@[simp] theorem State.flushAll_mem : (s.flushAll).mem = s.mem := rfl
@[simp] theorem State.flushAll_params : (s.flushAll).params = s.params := rfl
@[simp] theorem State.flushAll_window : (s.flushAll).window = s.window := rfl
@[simp] theorem State.flushAll_deferOwn : (s.flushAll).deferOwn = s.deferOwn := rfl
@[simp] theorem State.flushAll_ret : (s.flushAll).ret = s.ret := rfl
@[simp] theorem State.flushAll_sched : (s.flushAll).sched = s.sched := rfl
@[simp] theorem State.flushAll_draws : (s.flushAll).draws = s.draws := rfl

/-! `memWrite` -/

@[simp] theorem State.memWrite_rx (a : Addr) (b : Byte) : (s.memWrite a b).rx = s.rx := rfl
@[simp] theorem State.memWrite_tx (a : Addr) (b : Byte) : (s.memWrite a b).tx = s.tx := rfl
@[simp] theorem State.memWrite_ch (a : Addr) (b : Byte) : (s.memWrite a b).ch = s.ch := rfl
@[simp] theorem State.memWrite_rde (a : Addr) (b : Byte) : (s.memWrite a b).rde = s.rde := rfl
@[simp] theorem State.memWrite_wre (a : Addr) (b : Byte) : (s.memWrite a b).wre = s.wre := rfl
@[simp] theorem State.memWrite_stg (a : Addr) (b : Byte) : (s.memWrite a b).stg = s.stg := rfl
@[simp] theorem State.memWrite_xfer (a : Addr) (b : Byte) : (s.memWrite a b).xfer = s.xfer := rfl
@[simp] theorem State.memWrite_outcome (a : Addr) (b : Byte) : (s.memWrite a b).outcome = s.outcome := rfl
@[simp] theorem State.memWrite_sig (a : Addr) (b : Byte) : (s.memWrite a b).sig = s.sig := rfl
@[simp] theorem State.memWrite_defer (a : Addr) (b : Byte) : (s.memWrite a b).defer = s.defer := rfl
@[simp] theorem State.memWrite_irq (a : Addr) (b : Byte) : (s.memWrite a b).irq = s.irq := rfl
@[simp] theorem State.memWrite_eotPhase (a : Addr) (b : Byte) : (s.memWrite a b).eotPhase = s.eotPhase := rfl
@[simp] theorem State.memWrite_pins (a : Addr) (b : Byte) : (s.memWrite a b).pins = s.pins := rfl
@[simp] theorem State.memWrite_life (a : Addr) (b : Byte) : (s.memWrite a b).life = s.life := rfl
@[simp] theorem State.memWrite_cfg (a : Addr) (b : Byte) : (s.memWrite a b).cfg = s.cfg := rfl
@[simp] theorem State.memWrite_fault (a : Addr) (b : Byte) : (s.memWrite a b).fault = s.fault := rfl
@[simp] theorem State.memWrite_log (a : Addr) (b : Byte) : (s.memWrite a b).log = s.log := rfl
@[simp] theorem State.memWrite_tasks (a : Addr) (b : Byte) : (s.memWrite a b).tasks = s.tasks := rfl
@[simp] theorem State.memWrite_holder (a : Addr) (b : Byte) : (s.memWrite a b).holder = s.holder := rfl
@[simp] theorem State.memWrite_mem (a : Addr) (b : Byte) : (s.memWrite a b).mem = Tab.set Memory.unlisted s.mem a.toNat b := rfl
@[simp] theorem State.memWrite_params (a : Addr) (b : Byte) : (s.memWrite a b).params = s.params := rfl
@[simp] theorem State.memWrite_window (a : Addr) (b : Byte) : (s.memWrite a b).window = s.window := rfl
@[simp] theorem State.memWrite_deferOwn (a : Addr) (b : Byte) : (s.memWrite a b).deferOwn = s.deferOwn := rfl
@[simp] theorem State.memWrite_ret (a : Addr) (b : Byte) : (s.memWrite a b).ret = s.ret := rfl
@[simp] theorem State.memWrite_sched (a : Addr) (b : Byte) : (s.memWrite a b).sched = s.sched := rfl
@[simp] theorem State.memWrite_draws (a : Addr) (b : Byte) : (s.memWrite a b).draws = s.draws := rfl

/-! `openWindow` -/

@[simp] theorem State.openWindow_rx (t : TaskId) (cb : Bool) : (s.openWindow t cb).rx = s.rx := rfl
@[simp] theorem State.openWindow_tx (t : TaskId) (cb : Bool) : (s.openWindow t cb).tx = s.tx := rfl
@[simp] theorem State.openWindow_ch (t : TaskId) (cb : Bool) : (s.openWindow t cb).ch = s.ch := rfl
@[simp] theorem State.openWindow_rde (t : TaskId) (cb : Bool) : (s.openWindow t cb).rde = s.rde := rfl
@[simp] theorem State.openWindow_wre (t : TaskId) (cb : Bool) : (s.openWindow t cb).wre = s.wre := rfl
@[simp] theorem State.openWindow_stg (t : TaskId) (cb : Bool) : (s.openWindow t cb).stg = s.stg := rfl
@[simp] theorem State.openWindow_xfer (t : TaskId) (cb : Bool) : (s.openWindow t cb).xfer = s.xfer := rfl
@[simp] theorem State.openWindow_outcome (t : TaskId) (cb : Bool) : (s.openWindow t cb).outcome = s.outcome := rfl
@[simp] theorem State.openWindow_sig (t : TaskId) (cb : Bool) : (s.openWindow t cb).sig = s.sig := rfl
@[simp] theorem State.openWindow_defer (t : TaskId) (cb : Bool) : (s.openWindow t cb).defer = s.defer := rfl
@[simp] theorem State.openWindow_irq (t : TaskId) (cb : Bool) : (s.openWindow t cb).irq = s.irq := rfl
@[simp] theorem State.openWindow_eotPhase (t : TaskId) (cb : Bool) : (s.openWindow t cb).eotPhase = s.eotPhase := rfl
@[simp] theorem State.openWindow_pins (t : TaskId) (cb : Bool) : (s.openWindow t cb).pins = s.pins := rfl
@[simp] theorem State.openWindow_life (t : TaskId) (cb : Bool) : (s.openWindow t cb).life = s.life := rfl
@[simp] theorem State.openWindow_cfg (t : TaskId) (cb : Bool) : (s.openWindow t cb).cfg = s.cfg := rfl
@[simp] theorem State.openWindow_fault (t : TaskId) (cb : Bool) : (s.openWindow t cb).fault = s.fault := rfl
@[simp] theorem State.openWindow_log (t : TaskId) (cb : Bool) : (s.openWindow t cb).log = s.log := rfl
@[simp] theorem State.openWindow_tasks (t : TaskId) (cb : Bool) : (s.openWindow t cb).tasks = s.tasks := rfl
@[simp] theorem State.openWindow_holder (t : TaskId) (cb : Bool) : (s.openWindow t cb).holder = s.holder := rfl
@[simp] theorem State.openWindow_mem (t : TaskId) (cb : Bool) : (s.openWindow t cb).mem = s.mem := rfl
@[simp] theorem State.openWindow_params (t : TaskId) (cb : Bool) : (s.openWindow t cb).params = s.params := rfl
@[simp] theorem State.openWindow_window (t : TaskId) (cb : Bool) : (s.openWindow t cb).window = some ⟨t, cb⟩ := rfl
@[simp] theorem State.openWindow_deferOwn (t : TaskId) (cb : Bool) : (s.openWindow t cb).deferOwn = false := rfl
@[simp] theorem State.openWindow_ret (t : TaskId) (cb : Bool) : (s.openWindow t cb).ret = s.ret := rfl
@[simp] theorem State.openWindow_sched (t : TaskId) (cb : Bool) : (s.openWindow t cb).sched = s.sched := rfl
@[simp] theorem State.openWindow_draws (t : TaskId) (cb : Bool) : (s.openWindow t cb).draws = s.draws := rfl

/-! `observe` -/

@[simp] theorem State.observe_rx (t : TaskId) : (s.observe t).rx = s.rx := by unfold State.observe; split <;> rfl
@[simp] theorem State.observe_tx (t : TaskId) : (s.observe t).tx = s.tx := by unfold State.observe; split <;> rfl
@[simp] theorem State.observe_ch (t : TaskId) : (s.observe t).ch = s.ch := by unfold State.observe; split <;> rfl
@[simp] theorem State.observe_rde (t : TaskId) : (s.observe t).rde = s.rde := by unfold State.observe; split <;> rfl
@[simp] theorem State.observe_wre (t : TaskId) : (s.observe t).wre = s.wre := by unfold State.observe; split <;> rfl
@[simp] theorem State.observe_stg (t : TaskId) : (s.observe t).stg = s.stg := by unfold State.observe; split <;> rfl
@[simp] theorem State.observe_xfer (t : TaskId) : (s.observe t).xfer = s.xfer := by unfold State.observe; split <;> rfl
@[simp] theorem State.observe_outcome (t : TaskId) : (s.observe t).outcome = s.outcome := by unfold State.observe; split <;> rfl
@[simp] theorem State.observe_sig (t : TaskId) : (s.observe t).sig = s.sig := by unfold State.observe; split <;> rfl
@[simp] theorem State.observe_defer (t : TaskId) : (s.observe t).defer = s.defer := by unfold State.observe; split <;> rfl
@[simp] theorem State.observe_irq (t : TaskId) : (s.observe t).irq = s.irq := by unfold State.observe; split <;> rfl
@[simp] theorem State.observe_eotPhase (t : TaskId) : (s.observe t).eotPhase = s.eotPhase := by unfold State.observe; split <;> rfl
@[simp] theorem State.observe_pins (t : TaskId) : (s.observe t).pins = s.pins := by unfold State.observe; split <;> rfl
@[simp] theorem State.observe_life (t : TaskId) : (s.observe t).life = s.life := by unfold State.observe; split <;> rfl
@[simp] theorem State.observe_cfg (t : TaskId) : (s.observe t).cfg = s.cfg := by unfold State.observe; split <;> rfl
@[simp] theorem State.observe_fault (t : TaskId) : (s.observe t).fault = s.fault := by unfold State.observe; split <;> rfl
@[simp] theorem State.observe_log (t : TaskId) : (s.observe t).log = s.log := by unfold State.observe; split <;> rfl
@[simp] theorem State.observe_tasks (t : TaskId) : (s.observe t).tasks = s.tasks := by unfold State.observe; split <;> rfl
@[simp] theorem State.observe_holder (t : TaskId) : (s.observe t).holder = s.holder := by unfold State.observe; split <;> rfl
@[simp] theorem State.observe_mem (t : TaskId) : (s.observe t).mem = s.mem := by unfold State.observe; split <;> rfl
@[simp] theorem State.observe_params (t : TaskId) : (s.observe t).params = s.params := by unfold State.observe; split <;> rfl
@[simp] theorem State.observe_deferOwn (t : TaskId) : (s.observe t).deferOwn = s.deferOwn := by unfold State.observe; split <;> rfl
@[simp] theorem State.observe_ret (t : TaskId) : (s.observe t).ret = s.ret := by unfold State.observe; split <;> rfl
@[simp] theorem State.observe_sched (t : TaskId) : (s.observe t).sched = s.sched := by unfold State.observe; split <;> rfl
@[simp] theorem State.observe_draws (t : TaskId) : (s.observe t).draws = s.draws := by unfold State.observe; split <;> rfl

/-! `observeCallback` -/

@[simp] theorem State.observeCallback_rx : (s.observeCallback).rx = s.rx := by unfold State.observeCallback; split <;> rfl
@[simp] theorem State.observeCallback_tx : (s.observeCallback).tx = s.tx := by unfold State.observeCallback; split <;> rfl
@[simp] theorem State.observeCallback_ch : (s.observeCallback).ch = s.ch := by unfold State.observeCallback; split <;> rfl
@[simp] theorem State.observeCallback_rde : (s.observeCallback).rde = s.rde := by unfold State.observeCallback; split <;> rfl
@[simp] theorem State.observeCallback_wre : (s.observeCallback).wre = s.wre := by unfold State.observeCallback; split <;> rfl
@[simp] theorem State.observeCallback_stg : (s.observeCallback).stg = s.stg := by unfold State.observeCallback; split <;> rfl
@[simp] theorem State.observeCallback_xfer : (s.observeCallback).xfer = s.xfer := by unfold State.observeCallback; split <;> rfl
@[simp] theorem State.observeCallback_outcome : (s.observeCallback).outcome = s.outcome := by unfold State.observeCallback; split <;> rfl
@[simp] theorem State.observeCallback_sig : (s.observeCallback).sig = s.sig := by unfold State.observeCallback; split <;> rfl
@[simp] theorem State.observeCallback_defer : (s.observeCallback).defer = s.defer := by unfold State.observeCallback; split <;> rfl
@[simp] theorem State.observeCallback_irq : (s.observeCallback).irq = s.irq := by unfold State.observeCallback; split <;> rfl
@[simp] theorem State.observeCallback_eotPhase : (s.observeCallback).eotPhase = s.eotPhase := by unfold State.observeCallback; split <;> rfl
@[simp] theorem State.observeCallback_pins : (s.observeCallback).pins = s.pins := by unfold State.observeCallback; split <;> rfl
@[simp] theorem State.observeCallback_life : (s.observeCallback).life = s.life := by unfold State.observeCallback; split <;> rfl
@[simp] theorem State.observeCallback_cfg : (s.observeCallback).cfg = s.cfg := by unfold State.observeCallback; split <;> rfl
@[simp] theorem State.observeCallback_fault : (s.observeCallback).fault = s.fault := by unfold State.observeCallback; split <;> rfl
@[simp] theorem State.observeCallback_log : (s.observeCallback).log = s.log := by unfold State.observeCallback; split <;> rfl
@[simp] theorem State.observeCallback_tasks : (s.observeCallback).tasks = s.tasks := by unfold State.observeCallback; split <;> rfl
@[simp] theorem State.observeCallback_holder : (s.observeCallback).holder = s.holder := by unfold State.observeCallback; split <;> rfl
@[simp] theorem State.observeCallback_mem : (s.observeCallback).mem = s.mem := by unfold State.observeCallback; split <;> rfl
@[simp] theorem State.observeCallback_params : (s.observeCallback).params = s.params := by unfold State.observeCallback; split <;> rfl
@[simp] theorem State.observeCallback_deferOwn : (s.observeCallback).deferOwn = false := by unfold State.observeCallback; split <;> rfl
@[simp] theorem State.observeCallback_ret : (s.observeCallback).ret = s.ret := by unfold State.observeCallback; split <;> rfl
@[simp] theorem State.observeCallback_sched : (s.observeCallback).sched = s.sched := by unfold State.observeCallback; split <;> rfl
@[simp] theorem State.observeCallback_draws : (s.observeCallback).draws = s.draws := by unfold State.observeCallback; split <;> rfl

/-! `configRde` -/

@[simp] theorem State.configRde_rx (a : Addr) (n : Word) : (s.configRde a n).rx = s.rx := rfl
@[simp] theorem State.configRde_tx (a : Addr) (n : Word) : (s.configRde a n).tx = s.tx := rfl
@[simp] theorem State.configRde_ch (a : Addr) (n : Word) : (s.configRde a n).ch = s.ch := rfl
@[simp] theorem State.configRde_rde (a : Addr) (n : Word) : (s.configRde a n).rde = { s.rde with dst := a, count := n, idx := 0 } := rfl
@[simp] theorem State.configRde_wre (a : Addr) (n : Word) : (s.configRde a n).wre = s.wre := rfl
@[simp] theorem State.configRde_stg (a : Addr) (n : Word) : (s.configRde a n).stg = s.stg := rfl
@[simp] theorem State.configRde_xfer (a : Addr) (n : Word) : (s.configRde a n).xfer = s.xfer := rfl
@[simp] theorem State.configRde_outcome (a : Addr) (n : Word) : (s.configRde a n).outcome = s.outcome := rfl
@[simp] theorem State.configRde_sig (a : Addr) (n : Word) : (s.configRde a n).sig = s.sig := rfl
@[simp] theorem State.configRde_defer (a : Addr) (n : Word) : (s.configRde a n).defer = s.defer := rfl
@[simp] theorem State.configRde_irq (a : Addr) (n : Word) : (s.configRde a n).irq = s.irq := rfl
@[simp] theorem State.configRde_eotPhase (a : Addr) (n : Word) : (s.configRde a n).eotPhase = s.eotPhase := rfl
@[simp] theorem State.configRde_pins (a : Addr) (n : Word) : (s.configRde a n).pins = s.pins := rfl
@[simp] theorem State.configRde_life (a : Addr) (n : Word) : (s.configRde a n).life = s.life := rfl
@[simp] theorem State.configRde_cfg (a : Addr) (n : Word) : (s.configRde a n).cfg = s.cfg := rfl
@[simp] theorem State.configRde_fault (a : Addr) (n : Word) : (s.configRde a n).fault = s.fault := rfl
@[simp] theorem State.configRde_log (a : Addr) (n : Word) : (s.configRde a n).log = s.log := rfl
@[simp] theorem State.configRde_tasks (a : Addr) (n : Word) : (s.configRde a n).tasks = s.tasks := rfl
@[simp] theorem State.configRde_holder (a : Addr) (n : Word) : (s.configRde a n).holder = s.holder := rfl
@[simp] theorem State.configRde_mem (a : Addr) (n : Word) : (s.configRde a n).mem = s.mem := rfl
@[simp] theorem State.configRde_params (a : Addr) (n : Word) : (s.configRde a n).params = s.params := rfl
@[simp] theorem State.configRde_window (a : Addr) (n : Word) : (s.configRde a n).window = s.window := rfl
@[simp] theorem State.configRde_deferOwn (a : Addr) (n : Word) : (s.configRde a n).deferOwn = s.deferOwn := rfl
@[simp] theorem State.configRde_ret (a : Addr) (n : Word) : (s.configRde a n).ret = s.ret := rfl
@[simp] theorem State.configRde_sched (a : Addr) (n : Word) : (s.configRde a n).sched = s.sched := rfl
@[simp] theorem State.configRde_draws (a : Addr) (n : Word) : (s.configRde a n).draws = s.draws := rfl

/-! `activateRde` -/

@[simp] theorem State.activateRde_rx : (s.activateRde).rx = s.rx := rfl
@[simp] theorem State.activateRde_tx : (s.activateRde).tx = s.tx := rfl
@[simp] theorem State.activateRde_ch : (s.activateRde).ch = s.ch := rfl
@[simp] theorem State.activateRde_rde : (s.activateRde).rde = { s.rde with active := true } := rfl
@[simp] theorem State.activateRde_wre : (s.activateRde).wre = s.wre := rfl
@[simp] theorem State.activateRde_stg : (s.activateRde).stg = s.stg := rfl
@[simp] theorem State.activateRde_xfer : (s.activateRde).xfer = s.xfer := rfl
@[simp] theorem State.activateRde_outcome : (s.activateRde).outcome = s.outcome := rfl
@[simp] theorem State.activateRde_sig : (s.activateRde).sig = s.sig := rfl
@[simp] theorem State.activateRde_defer : (s.activateRde).defer = s.defer := rfl
@[simp] theorem State.activateRde_irq : (s.activateRde).irq = s.irq := rfl
@[simp] theorem State.activateRde_eotPhase : (s.activateRde).eotPhase = s.eotPhase := rfl
@[simp] theorem State.activateRde_pins : (s.activateRde).pins = s.pins := rfl
@[simp] theorem State.activateRde_life : (s.activateRde).life = s.life := rfl
@[simp] theorem State.activateRde_cfg : (s.activateRde).cfg = s.cfg := rfl
@[simp] theorem State.activateRde_fault : (s.activateRde).fault = s.fault := rfl
@[simp] theorem State.activateRde_log : (s.activateRde).log = s.log := rfl
@[simp] theorem State.activateRde_tasks : (s.activateRde).tasks = s.tasks := rfl
@[simp] theorem State.activateRde_holder : (s.activateRde).holder = s.holder := rfl
@[simp] theorem State.activateRde_mem : (s.activateRde).mem = s.mem := rfl
@[simp] theorem State.activateRde_params : (s.activateRde).params = s.params := rfl
@[simp] theorem State.activateRde_window : (s.activateRde).window = s.window := rfl
@[simp] theorem State.activateRde_deferOwn : (s.activateRde).deferOwn = s.deferOwn := rfl
@[simp] theorem State.activateRde_ret : (s.activateRde).ret = s.ret := rfl
@[simp] theorem State.activateRde_sched : (s.activateRde).sched = s.sched := rfl
@[simp] theorem State.activateRde_draws : (s.activateRde).draws = s.draws := rfl

/-! `deactivateRde` -/

@[simp] theorem State.deactivateRde_rx : (s.deactivateRde).rx = s.rx := rfl
@[simp] theorem State.deactivateRde_tx : (s.deactivateRde).tx = s.tx := rfl
@[simp] theorem State.deactivateRde_ch : (s.deactivateRde).ch = s.ch := rfl
@[simp] theorem State.deactivateRde_rde : (s.deactivateRde).rde = { s.rde with active := false } := rfl
@[simp] theorem State.deactivateRde_wre : (s.deactivateRde).wre = s.wre := rfl
@[simp] theorem State.deactivateRde_stg : (s.deactivateRde).stg = s.stg := rfl
@[simp] theorem State.deactivateRde_xfer : (s.deactivateRde).xfer = s.xfer := rfl
@[simp] theorem State.deactivateRde_outcome : (s.deactivateRde).outcome = s.outcome := rfl
@[simp] theorem State.deactivateRde_sig : (s.deactivateRde).sig = s.sig := rfl
@[simp] theorem State.deactivateRde_defer : (s.deactivateRde).defer = s.defer := rfl
@[simp] theorem State.deactivateRde_irq : (s.deactivateRde).irq = s.irq := rfl
@[simp] theorem State.deactivateRde_eotPhase : (s.deactivateRde).eotPhase = s.eotPhase := rfl
@[simp] theorem State.deactivateRde_pins : (s.deactivateRde).pins = s.pins := rfl
@[simp] theorem State.deactivateRde_life : (s.deactivateRde).life = s.life := rfl
@[simp] theorem State.deactivateRde_cfg : (s.deactivateRde).cfg = s.cfg := rfl
@[simp] theorem State.deactivateRde_fault : (s.deactivateRde).fault = s.fault := rfl
@[simp] theorem State.deactivateRde_log : (s.deactivateRde).log = s.log := rfl
@[simp] theorem State.deactivateRde_tasks : (s.deactivateRde).tasks = s.tasks := rfl
@[simp] theorem State.deactivateRde_holder : (s.deactivateRde).holder = s.holder := rfl
@[simp] theorem State.deactivateRde_mem : (s.deactivateRde).mem = s.mem := rfl
@[simp] theorem State.deactivateRde_params : (s.deactivateRde).params = s.params := rfl
@[simp] theorem State.deactivateRde_window : (s.deactivateRde).window = s.window := rfl
@[simp] theorem State.deactivateRde_deferOwn : (s.deactivateRde).deferOwn = s.deferOwn := rfl
@[simp] theorem State.deactivateRde_ret : (s.deactivateRde).ret = s.ret := rfl
@[simp] theorem State.deactivateRde_sched : (s.deactivateRde).sched = s.sched := rfl
@[simp] theorem State.deactivateRde_draws : (s.deactivateRde).draws = s.draws := rfl

/-! `configWre` -/

@[simp] theorem State.configWre_rx (data : List Byte) (n : Word) : (s.configWre data n).rx = s.rx := by unfold State.configWre; split <;> rfl
@[simp] theorem State.configWre_tx (data : List Byte) (n : Word) : (s.configWre data n).tx = s.tx := by unfold State.configWre; split <;> rfl
@[simp] theorem State.configWre_ch (data : List Byte) (n : Word) : (s.configWre data n).ch = s.ch := by unfold State.configWre; split <;> rfl
@[simp] theorem State.configWre_rde (data : List Byte) (n : Word) : (s.configWre data n).rde = s.rde := by unfold State.configWre; split <;> rfl
@[simp] theorem State.configWre_stg (data : List Byte) (n : Word) : (s.configWre data n).stg = s.stg := by unfold State.configWre; split <;> rfl
@[simp] theorem State.configWre_xfer (data : List Byte) (n : Word) : (s.configWre data n).xfer = s.xfer := by unfold State.configWre; split <;> rfl
@[simp] theorem State.configWre_outcome (data : List Byte) (n : Word) : (s.configWre data n).outcome = s.outcome := by unfold State.configWre; split <;> rfl
@[simp] theorem State.configWre_sig (data : List Byte) (n : Word) : (s.configWre data n).sig = s.sig := by unfold State.configWre; split <;> rfl
@[simp] theorem State.configWre_defer (data : List Byte) (n : Word) : (s.configWre data n).defer = s.defer := by unfold State.configWre; split <;> rfl
@[simp] theorem State.configWre_irq (data : List Byte) (n : Word) : (s.configWre data n).irq = s.irq := by unfold State.configWre; split <;> rfl
@[simp] theorem State.configWre_eotPhase (data : List Byte) (n : Word) : (s.configWre data n).eotPhase = s.eotPhase := by unfold State.configWre; split <;> rfl
@[simp] theorem State.configWre_pins (data : List Byte) (n : Word) : (s.configWre data n).pins = s.pins := by unfold State.configWre; split <;> rfl
@[simp] theorem State.configWre_life (data : List Byte) (n : Word) : (s.configWre data n).life = s.life := by unfold State.configWre; split <;> rfl
@[simp] theorem State.configWre_cfg (data : List Byte) (n : Word) : (s.configWre data n).cfg = s.cfg := by unfold State.configWre; split <;> rfl
@[simp] theorem State.configWre_fault (data : List Byte) (n : Word) : (s.configWre data n).fault = s.fault := by unfold State.configWre; split <;> rfl
@[simp] theorem State.configWre_log (data : List Byte) (n : Word) : (s.configWre data n).log = s.log := by unfold State.configWre; split <;> rfl
@[simp] theorem State.configWre_tasks (data : List Byte) (n : Word) : (s.configWre data n).tasks = s.tasks := by unfold State.configWre; split <;> rfl
@[simp] theorem State.configWre_holder (data : List Byte) (n : Word) : (s.configWre data n).holder = s.holder := by unfold State.configWre; split <;> rfl
@[simp] theorem State.configWre_mem (data : List Byte) (n : Word) : (s.configWre data n).mem = s.mem := by unfold State.configWre; split <;> rfl
@[simp] theorem State.configWre_params (data : List Byte) (n : Word) : (s.configWre data n).params = s.params := by unfold State.configWre; split <;> rfl
@[simp] theorem State.configWre_window (data : List Byte) (n : Word) : (s.configWre data n).window = s.window := by unfold State.configWre; split <;> rfl
@[simp] theorem State.configWre_deferOwn (data : List Byte) (n : Word) : (s.configWre data n).deferOwn = s.deferOwn := by unfold State.configWre; split <;> rfl
@[simp] theorem State.configWre_ret (data : List Byte) (n : Word) : (s.configWre data n).ret = s.ret := by unfold State.configWre; split <;> rfl
@[simp] theorem State.configWre_sched (data : List Byte) (n : Word) : (s.configWre data n).sched = s.sched := by unfold State.configWre; split <;> rfl
@[simp] theorem State.configWre_draws (data : List Byte) (n : Word) : (s.configWre data n).draws = s.draws := by unfold State.configWre; split <;> rfl

/-! `activateWre` -/

@[simp] theorem State.activateWre_rx : (s.activateWre).rx = s.rx := by unfold State.activateWre; split <;> rfl
@[simp] theorem State.activateWre_tx : (s.activateWre).tx = s.tx := by unfold State.activateWre; split <;> rfl
@[simp] theorem State.activateWre_ch : (s.activateWre).ch = s.ch := by unfold State.activateWre; split <;> rfl
@[simp] theorem State.activateWre_rde : (s.activateWre).rde = s.rde := by unfold State.activateWre; split <;> rfl
@[simp] theorem State.activateWre_stg : (s.activateWre).stg = s.stg := by unfold State.activateWre; split <;> rfl
@[simp] theorem State.activateWre_xfer : (s.activateWre).xfer = s.xfer := by unfold State.activateWre; split <;> rfl
@[simp] theorem State.activateWre_outcome : (s.activateWre).outcome = s.outcome := by unfold State.activateWre; split <;> rfl
@[simp] theorem State.activateWre_sig : (s.activateWre).sig = s.sig := by unfold State.activateWre; split <;> rfl
@[simp] theorem State.activateWre_defer : (s.activateWre).defer = s.defer := by unfold State.activateWre; split <;> rfl
@[simp] theorem State.activateWre_irq : (s.activateWre).irq = s.irq := by unfold State.activateWre; split <;> rfl
@[simp] theorem State.activateWre_eotPhase : (s.activateWre).eotPhase = s.eotPhase := by unfold State.activateWre; split <;> rfl
@[simp] theorem State.activateWre_pins : (s.activateWre).pins = s.pins := by unfold State.activateWre; split <;> rfl
@[simp] theorem State.activateWre_life : (s.activateWre).life = s.life := by unfold State.activateWre; split <;> rfl
@[simp] theorem State.activateWre_cfg : (s.activateWre).cfg = s.cfg := by unfold State.activateWre; split <;> rfl
@[simp] theorem State.activateWre_fault : (s.activateWre).fault = s.fault := by unfold State.activateWre; split <;> rfl
@[simp] theorem State.activateWre_log : (s.activateWre).log = s.log := by unfold State.activateWre; split <;> rfl
@[simp] theorem State.activateWre_tasks : (s.activateWre).tasks = s.tasks := by unfold State.activateWre; split <;> rfl
@[simp] theorem State.activateWre_holder : (s.activateWre).holder = s.holder := by unfold State.activateWre; split <;> rfl
@[simp] theorem State.activateWre_mem : (s.activateWre).mem = s.mem := by unfold State.activateWre; split <;> rfl
@[simp] theorem State.activateWre_params : (s.activateWre).params = s.params := by unfold State.activateWre; split <;> rfl
@[simp] theorem State.activateWre_window : (s.activateWre).window = s.window := by unfold State.activateWre; split <;> rfl
@[simp] theorem State.activateWre_deferOwn : (s.activateWre).deferOwn = s.deferOwn := by unfold State.activateWre; split <;> rfl
@[simp] theorem State.activateWre_ret : (s.activateWre).ret = s.ret := by unfold State.activateWre; split <;> rfl
@[simp] theorem State.activateWre_sched : (s.activateWre).sched = s.sched := by unfold State.activateWre; split <;> rfl
@[simp] theorem State.activateWre_draws : (s.activateWre).draws = s.draws := by unfold State.activateWre; split <;> rfl

/-! `deactivateWre` -/

@[simp] theorem State.deactivateWre_rx : (s.deactivateWre).rx = s.rx := by unfold State.deactivateWre; split <;> rfl
@[simp] theorem State.deactivateWre_tx : (s.deactivateWre).tx = s.tx := by unfold State.deactivateWre; split <;> rfl
@[simp] theorem State.deactivateWre_ch : (s.deactivateWre).ch = s.ch := by unfold State.deactivateWre; split <;> rfl
@[simp] theorem State.deactivateWre_rde : (s.deactivateWre).rde = s.rde := by unfold State.deactivateWre; split <;> rfl
@[simp] theorem State.deactivateWre_stg : (s.deactivateWre).stg = s.stg := by unfold State.deactivateWre; split <;> rfl
@[simp] theorem State.deactivateWre_xfer : (s.deactivateWre).xfer = s.xfer := by unfold State.deactivateWre; split <;> rfl
@[simp] theorem State.deactivateWre_outcome : (s.deactivateWre).outcome = s.outcome := by unfold State.deactivateWre; split <;> rfl
@[simp] theorem State.deactivateWre_sig : (s.deactivateWre).sig = s.sig := by unfold State.deactivateWre; split <;> rfl
@[simp] theorem State.deactivateWre_defer : (s.deactivateWre).defer = s.defer := by unfold State.deactivateWre; split <;> rfl
@[simp] theorem State.deactivateWre_irq : (s.deactivateWre).irq = s.irq := by unfold State.deactivateWre; split <;> rfl
@[simp] theorem State.deactivateWre_eotPhase : (s.deactivateWre).eotPhase = s.eotPhase := by unfold State.deactivateWre; split <;> rfl
@[simp] theorem State.deactivateWre_pins : (s.deactivateWre).pins = s.pins := by unfold State.deactivateWre; split <;> rfl
@[simp] theorem State.deactivateWre_life : (s.deactivateWre).life = s.life := by unfold State.deactivateWre; split <;> rfl
@[simp] theorem State.deactivateWre_cfg : (s.deactivateWre).cfg = s.cfg := by unfold State.deactivateWre; split <;> rfl
@[simp] theorem State.deactivateWre_fault : (s.deactivateWre).fault = s.fault := by unfold State.deactivateWre; split <;> rfl
@[simp] theorem State.deactivateWre_log : (s.deactivateWre).log = s.log := by unfold State.deactivateWre; split <;> rfl
@[simp] theorem State.deactivateWre_tasks : (s.deactivateWre).tasks = s.tasks := by unfold State.deactivateWre; split <;> rfl
@[simp] theorem State.deactivateWre_holder : (s.deactivateWre).holder = s.holder := by unfold State.deactivateWre; split <;> rfl
@[simp] theorem State.deactivateWre_mem : (s.deactivateWre).mem = s.mem := by unfold State.deactivateWre; split <;> rfl
@[simp] theorem State.deactivateWre_params : (s.deactivateWre).params = s.params := by unfold State.deactivateWre; split <;> rfl
@[simp] theorem State.deactivateWre_window : (s.deactivateWre).window = s.window := by unfold State.deactivateWre; split <;> rfl
@[simp] theorem State.deactivateWre_deferOwn : (s.deactivateWre).deferOwn = s.deferOwn := by unfold State.deactivateWre; split <;> rfl
@[simp] theorem State.deactivateWre_ret : (s.deactivateWre).ret = s.ret := by unfold State.deactivateWre; split <;> rfl
@[simp] theorem State.deactivateWre_sched : (s.deactivateWre).sched = s.sched := by unfold State.deactivateWre; split <;> rfl
@[simp] theorem State.deactivateWre_draws : (s.deactivateWre).draws = s.draws := by unfold State.deactivateWre; split <;> rfl

/-! `deactivateSeq` -/

@[simp] theorem State.deactivateSeq_ch (q : Sequencer) : (s.deactivateSeq q).ch = s.ch := by cases q with | rx => rfl | tx => simp only [State.deactivateSeq]; split <;> rfl
@[simp] theorem State.deactivateSeq_rde (q : Sequencer) : (s.deactivateSeq q).rde = s.rde := by cases q with | rx => rfl | tx => simp only [State.deactivateSeq]; split <;> rfl
@[simp] theorem State.deactivateSeq_wre (q : Sequencer) : (s.deactivateSeq q).wre = s.wre := by cases q with | rx => rfl | tx => simp only [State.deactivateSeq]; split <;> rfl
@[simp] theorem State.deactivateSeq_stg (q : Sequencer) : (s.deactivateSeq q).stg = s.stg := by cases q with | rx => rfl | tx => simp only [State.deactivateSeq]; split <;> rfl
@[simp] theorem State.deactivateSeq_xfer (q : Sequencer) : (s.deactivateSeq q).xfer = s.xfer := by cases q with | rx => rfl | tx => simp only [State.deactivateSeq]; split <;> rfl
@[simp] theorem State.deactivateSeq_outcome (q : Sequencer) : (s.deactivateSeq q).outcome = s.outcome := by cases q with | rx => rfl | tx => simp only [State.deactivateSeq]; split <;> rfl
@[simp] theorem State.deactivateSeq_sig (q : Sequencer) : (s.deactivateSeq q).sig = s.sig := by cases q with | rx => rfl | tx => simp only [State.deactivateSeq]; split <;> rfl
@[simp] theorem State.deactivateSeq_defer (q : Sequencer) : (s.deactivateSeq q).defer = s.defer := by cases q with | rx => rfl | tx => simp only [State.deactivateSeq]; split <;> rfl
@[simp] theorem State.deactivateSeq_irq (q : Sequencer) : (s.deactivateSeq q).irq = s.irq := by cases q with | rx => rfl | tx => simp only [State.deactivateSeq]; split <;> rfl
@[simp] theorem State.deactivateSeq_eotPhase (q : Sequencer) : (s.deactivateSeq q).eotPhase = s.eotPhase := by cases q with | rx => rfl | tx => simp only [State.deactivateSeq]; split <;> rfl
@[simp] theorem State.deactivateSeq_pins (q : Sequencer) : (s.deactivateSeq q).pins = s.pins := by cases q with | rx => rfl | tx => simp only [State.deactivateSeq]; split <;> rfl
@[simp] theorem State.deactivateSeq_life (q : Sequencer) : (s.deactivateSeq q).life = s.life := by cases q with | rx => rfl | tx => simp only [State.deactivateSeq]; split <;> rfl
@[simp] theorem State.deactivateSeq_cfg (q : Sequencer) : (s.deactivateSeq q).cfg = s.cfg := by cases q with | rx => rfl | tx => simp only [State.deactivateSeq]; split <;> rfl
@[simp] theorem State.deactivateSeq_fault (q : Sequencer) : (s.deactivateSeq q).fault = s.fault := by cases q with | rx => rfl | tx => simp only [State.deactivateSeq]; split <;> rfl
@[simp] theorem State.deactivateSeq_log (q : Sequencer) : (s.deactivateSeq q).log = s.log := by cases q with | rx => rfl | tx => simp only [State.deactivateSeq]; split <;> rfl
@[simp] theorem State.deactivateSeq_tasks (q : Sequencer) : (s.deactivateSeq q).tasks = s.tasks := by cases q with | rx => rfl | tx => simp only [State.deactivateSeq]; split <;> rfl
@[simp] theorem State.deactivateSeq_holder (q : Sequencer) : (s.deactivateSeq q).holder = s.holder := by cases q with | rx => rfl | tx => simp only [State.deactivateSeq]; split <;> rfl
@[simp] theorem State.deactivateSeq_mem (q : Sequencer) : (s.deactivateSeq q).mem = s.mem := by cases q with | rx => rfl | tx => simp only [State.deactivateSeq]; split <;> rfl
@[simp] theorem State.deactivateSeq_params (q : Sequencer) : (s.deactivateSeq q).params = s.params := by cases q with | rx => rfl | tx => simp only [State.deactivateSeq]; split <;> rfl
@[simp] theorem State.deactivateSeq_window (q : Sequencer) : (s.deactivateSeq q).window = s.window := by cases q with | rx => rfl | tx => simp only [State.deactivateSeq]; split <;> rfl
@[simp] theorem State.deactivateSeq_deferOwn (q : Sequencer) : (s.deactivateSeq q).deferOwn = s.deferOwn := by cases q with | rx => rfl | tx => simp only [State.deactivateSeq]; split <;> rfl
@[simp] theorem State.deactivateSeq_ret (q : Sequencer) : (s.deactivateSeq q).ret = s.ret := by cases q with | rx => rfl | tx => simp only [State.deactivateSeq]; split <;> rfl
@[simp] theorem State.deactivateSeq_sched (q : Sequencer) : (s.deactivateSeq q).sched = s.sched := by cases q with | rx => rfl | tx => simp only [State.deactivateSeq]; split <;> rfl
@[simp] theorem State.deactivateSeq_draws (q : Sequencer) : (s.deactivateSeq q).draws = s.draws := by cases q with | rx => rfl | tx => simp only [State.deactivateSeq]; split <;> rfl

/-! `restartSeq` -/

@[simp] theorem State.restartSeq_ch (q : Sequencer) : (s.restartSeq q).ch = s.ch := by cases q with | rx => rfl | tx => simp only [State.restartSeq]; split <;> rfl
@[simp] theorem State.restartSeq_rde (q : Sequencer) : (s.restartSeq q).rde = s.rde := by cases q with | rx => rfl | tx => simp only [State.restartSeq]; split <;> rfl
@[simp] theorem State.restartSeq_wre (q : Sequencer) : (s.restartSeq q).wre = s.wre := by cases q with | rx => rfl | tx => simp only [State.restartSeq]; split <;> rfl
@[simp] theorem State.restartSeq_stg (q : Sequencer) : (s.restartSeq q).stg = s.stg := by cases q with | rx => rfl | tx => simp only [State.restartSeq]; split <;> rfl
@[simp] theorem State.restartSeq_xfer (q : Sequencer) : (s.restartSeq q).xfer = s.xfer := by cases q with | rx => rfl | tx => simp only [State.restartSeq]; split <;> rfl
@[simp] theorem State.restartSeq_outcome (q : Sequencer) : (s.restartSeq q).outcome = s.outcome := by cases q with | rx => rfl | tx => simp only [State.restartSeq]; split <;> rfl
@[simp] theorem State.restartSeq_sig (q : Sequencer) : (s.restartSeq q).sig = s.sig := by cases q with | rx => rfl | tx => simp only [State.restartSeq]; split <;> rfl
@[simp] theorem State.restartSeq_defer (q : Sequencer) : (s.restartSeq q).defer = s.defer := by cases q with | rx => rfl | tx => simp only [State.restartSeq]; split <;> rfl
@[simp] theorem State.restartSeq_irq (q : Sequencer) : (s.restartSeq q).irq = s.irq := by cases q with | rx => rfl | tx => simp only [State.restartSeq]; split <;> rfl
@[simp] theorem State.restartSeq_eotPhase (q : Sequencer) : (s.restartSeq q).eotPhase = s.eotPhase := by cases q with | rx => rfl | tx => simp only [State.restartSeq]; split <;> rfl
@[simp] theorem State.restartSeq_pins (q : Sequencer) : (s.restartSeq q).pins = s.pins := by cases q with | rx => rfl | tx => simp only [State.restartSeq]; split <;> rfl
@[simp] theorem State.restartSeq_life (q : Sequencer) : (s.restartSeq q).life = s.life := by cases q with | rx => rfl | tx => simp only [State.restartSeq]; split <;> rfl
@[simp] theorem State.restartSeq_cfg (q : Sequencer) : (s.restartSeq q).cfg = s.cfg := by cases q with | rx => rfl | tx => simp only [State.restartSeq]; split <;> rfl
@[simp] theorem State.restartSeq_fault (q : Sequencer) : (s.restartSeq q).fault = s.fault := by cases q with | rx => rfl | tx => simp only [State.restartSeq]; split <;> rfl
@[simp] theorem State.restartSeq_log (q : Sequencer) : (s.restartSeq q).log = s.log := by cases q with | rx => rfl | tx => simp only [State.restartSeq]; split <;> rfl
@[simp] theorem State.restartSeq_tasks (q : Sequencer) : (s.restartSeq q).tasks = s.tasks := by cases q with | rx => rfl | tx => simp only [State.restartSeq]; split <;> rfl
@[simp] theorem State.restartSeq_holder (q : Sequencer) : (s.restartSeq q).holder = s.holder := by cases q with | rx => rfl | tx => simp only [State.restartSeq]; split <;> rfl
@[simp] theorem State.restartSeq_mem (q : Sequencer) : (s.restartSeq q).mem = s.mem := by cases q with | rx => rfl | tx => simp only [State.restartSeq]; split <;> rfl
@[simp] theorem State.restartSeq_params (q : Sequencer) : (s.restartSeq q).params = s.params := by cases q with | rx => rfl | tx => simp only [State.restartSeq]; split <;> rfl
@[simp] theorem State.restartSeq_window (q : Sequencer) : (s.restartSeq q).window = s.window := by cases q with | rx => rfl | tx => simp only [State.restartSeq]; split <;> rfl
@[simp] theorem State.restartSeq_deferOwn (q : Sequencer) : (s.restartSeq q).deferOwn = s.deferOwn := by cases q with | rx => rfl | tx => simp only [State.restartSeq]; split <;> rfl
@[simp] theorem State.restartSeq_ret (q : Sequencer) : (s.restartSeq q).ret = s.ret := by cases q with | rx => rfl | tx => simp only [State.restartSeq]; split <;> rfl
@[simp] theorem State.restartSeq_sched (q : Sequencer) : (s.restartSeq q).sched = s.sched := by cases q with | rx => rfl | tx => simp only [State.restartSeq]; split <;> rfl
@[simp] theorem State.restartSeq_draws (q : Sequencer) : (s.restartSeq q).draws = s.draws := by cases q with | rx => rfl | tx => simp only [State.restartSeq]; split <;> rfl

/-! `activateSeq` -/

@[simp] theorem State.activateSeq_ch (q : Sequencer) : (s.activateSeq q).ch = s.ch := by cases q with | rx => rfl | tx => simp only [State.activateSeq]; split <;> rfl
@[simp] theorem State.activateSeq_rde (q : Sequencer) : (s.activateSeq q).rde = s.rde := by cases q with | rx => rfl | tx => simp only [State.activateSeq]; split <;> rfl
@[simp] theorem State.activateSeq_wre (q : Sequencer) : (s.activateSeq q).wre = s.wre := by cases q with | rx => rfl | tx => simp only [State.activateSeq]; split <;> rfl
@[simp] theorem State.activateSeq_stg (q : Sequencer) : (s.activateSeq q).stg = s.stg := by cases q with | rx => rfl | tx => simp only [State.activateSeq]; split <;> rfl
@[simp] theorem State.activateSeq_xfer (q : Sequencer) : (s.activateSeq q).xfer = s.xfer := by cases q with | rx => rfl | tx => simp only [State.activateSeq]; split <;> rfl
@[simp] theorem State.activateSeq_outcome (q : Sequencer) : (s.activateSeq q).outcome = s.outcome := by cases q with | rx => rfl | tx => simp only [State.activateSeq]; split <;> rfl
@[simp] theorem State.activateSeq_sig (q : Sequencer) : (s.activateSeq q).sig = s.sig := by cases q with | rx => rfl | tx => simp only [State.activateSeq]; split <;> rfl
@[simp] theorem State.activateSeq_defer (q : Sequencer) : (s.activateSeq q).defer = s.defer := by cases q with | rx => rfl | tx => simp only [State.activateSeq]; split <;> rfl
@[simp] theorem State.activateSeq_irq (q : Sequencer) : (s.activateSeq q).irq = s.irq := by cases q with | rx => rfl | tx => simp only [State.activateSeq]; split <;> rfl
@[simp] theorem State.activateSeq_eotPhase (q : Sequencer) : (s.activateSeq q).eotPhase = s.eotPhase := by cases q with | rx => rfl | tx => simp only [State.activateSeq]; split <;> rfl
@[simp] theorem State.activateSeq_pins (q : Sequencer) : (s.activateSeq q).pins = s.pins := by cases q with | rx => rfl | tx => simp only [State.activateSeq]; split <;> rfl
@[simp] theorem State.activateSeq_life (q : Sequencer) : (s.activateSeq q).life = s.life := by cases q with | rx => rfl | tx => simp only [State.activateSeq]; split <;> rfl
@[simp] theorem State.activateSeq_cfg (q : Sequencer) : (s.activateSeq q).cfg = s.cfg := by cases q with | rx => rfl | tx => simp only [State.activateSeq]; split <;> rfl
@[simp] theorem State.activateSeq_fault (q : Sequencer) : (s.activateSeq q).fault = s.fault := by cases q with | rx => rfl | tx => simp only [State.activateSeq]; split <;> rfl
@[simp] theorem State.activateSeq_log (q : Sequencer) : (s.activateSeq q).log = s.log := by cases q with | rx => rfl | tx => simp only [State.activateSeq]; split <;> rfl
@[simp] theorem State.activateSeq_tasks (q : Sequencer) : (s.activateSeq q).tasks = s.tasks := by cases q with | rx => rfl | tx => simp only [State.activateSeq]; split <;> rfl
@[simp] theorem State.activateSeq_holder (q : Sequencer) : (s.activateSeq q).holder = s.holder := by cases q with | rx => rfl | tx => simp only [State.activateSeq]; split <;> rfl
@[simp] theorem State.activateSeq_mem (q : Sequencer) : (s.activateSeq q).mem = s.mem := by cases q with | rx => rfl | tx => simp only [State.activateSeq]; split <;> rfl
@[simp] theorem State.activateSeq_params (q : Sequencer) : (s.activateSeq q).params = s.params := by cases q with | rx => rfl | tx => simp only [State.activateSeq]; split <;> rfl
@[simp] theorem State.activateSeq_window (q : Sequencer) : (s.activateSeq q).window = s.window := by cases q with | rx => rfl | tx => simp only [State.activateSeq]; split <;> rfl
@[simp] theorem State.activateSeq_deferOwn (q : Sequencer) : (s.activateSeq q).deferOwn = s.deferOwn := by cases q with | rx => rfl | tx => simp only [State.activateSeq]; split <;> rfl
@[simp] theorem State.activateSeq_ret (q : Sequencer) : (s.activateSeq q).ret = s.ret := by cases q with | rx => rfl | tx => simp only [State.activateSeq]; split <;> rfl
@[simp] theorem State.activateSeq_sched (q : Sequencer) : (s.activateSeq q).sched = s.sched := by cases q with | rx => rfl | tx => simp only [State.activateSeq]; split <;> rfl
@[simp] theorem State.activateSeq_draws (q : Sequencer) : (s.activateSeq q).draws = s.draws := by cases q with | rx => rfl | tx => simp only [State.activateSeq]; split <;> rfl

/-! `enterHandler` -/

@[simp] theorem State.enterHandler_rx : (s.enterHandler).rx = s.rx := rfl
@[simp] theorem State.enterHandler_tx : (s.enterHandler).tx = s.tx := rfl
@[simp] theorem State.enterHandler_ch : (s.enterHandler).ch = s.ch := rfl
@[simp] theorem State.enterHandler_rde : (s.enterHandler).rde = s.rde := rfl
@[simp] theorem State.enterHandler_wre : (s.enterHandler).wre = s.wre := rfl
@[simp] theorem State.enterHandler_stg : (s.enterHandler).stg = s.stg := rfl
@[simp] theorem State.enterHandler_xfer : (s.enterHandler).xfer = s.xfer := rfl
@[simp] theorem State.enterHandler_outcome : (s.enterHandler).outcome = s.outcome := rfl
@[simp] theorem State.enterHandler_sig : (s.enterHandler).sig = s.sig := rfl
@[simp] theorem State.enterHandler_defer : (s.enterHandler).defer = s.defer := rfl
@[simp] theorem State.enterHandler_irq : (s.enterHandler).irq = { s.irq with pending := false } := rfl
@[simp] theorem State.enterHandler_eotPhase : (s.enterHandler).eotPhase = 1 := rfl
@[simp] theorem State.enterHandler_pins : (s.enterHandler).pins = s.pins := rfl
@[simp] theorem State.enterHandler_life : (s.enterHandler).life = s.life := rfl
@[simp] theorem State.enterHandler_cfg : (s.enterHandler).cfg = s.cfg := rfl
@[simp] theorem State.enterHandler_fault : (s.enterHandler).fault = s.fault := rfl
@[simp] theorem State.enterHandler_log : (s.enterHandler).log = s.log := rfl
@[simp] theorem State.enterHandler_tasks : (s.enterHandler).tasks = s.tasks := rfl
@[simp] theorem State.enterHandler_holder : (s.enterHandler).holder = s.holder := rfl
@[simp] theorem State.enterHandler_mem : (s.enterHandler).mem = s.mem := rfl
@[simp] theorem State.enterHandler_params : (s.enterHandler).params = s.params := rfl
@[simp] theorem State.enterHandler_window : (s.enterHandler).window = s.window := rfl
@[simp] theorem State.enterHandler_deferOwn : (s.enterHandler).deferOwn = s.deferOwn := rfl
@[simp] theorem State.enterHandler_ret : (s.enterHandler).ret = s.ret := rfl
@[simp] theorem State.enterHandler_sched : (s.enterHandler).sched = s.sched := rfl
@[simp] theorem State.enterHandler_draws : (s.enterHandler).draws = s.draws := rfl

/-! `leaveHandler` -/

@[simp] theorem State.leaveHandler_rx : (s.leaveHandler).rx = s.rx := rfl
@[simp] theorem State.leaveHandler_tx : (s.leaveHandler).tx = s.tx := rfl
@[simp] theorem State.leaveHandler_ch : (s.leaveHandler).ch = s.ch := rfl
@[simp] theorem State.leaveHandler_rde : (s.leaveHandler).rde = s.rde := rfl
@[simp] theorem State.leaveHandler_wre : (s.leaveHandler).wre = s.wre := rfl
@[simp] theorem State.leaveHandler_stg : (s.leaveHandler).stg = s.stg := rfl
@[simp] theorem State.leaveHandler_xfer : (s.leaveHandler).xfer = s.xfer := rfl
@[simp] theorem State.leaveHandler_outcome : (s.leaveHandler).outcome = s.outcome := rfl
@[simp] theorem State.leaveHandler_sig : (s.leaveHandler).sig = s.sig := rfl
@[simp] theorem State.leaveHandler_defer : (s.leaveHandler).defer = s.defer := rfl
@[simp] theorem State.leaveHandler_irq : (s.leaveHandler).irq = s.irq := rfl
@[simp] theorem State.leaveHandler_eotPhase : (s.leaveHandler).eotPhase = 0 := rfl
@[simp] theorem State.leaveHandler_pins : (s.leaveHandler).pins = s.pins := rfl
@[simp] theorem State.leaveHandler_life : (s.leaveHandler).life = s.life := rfl
@[simp] theorem State.leaveHandler_cfg : (s.leaveHandler).cfg = s.cfg := rfl
@[simp] theorem State.leaveHandler_fault : (s.leaveHandler).fault = s.fault := rfl
@[simp] theorem State.leaveHandler_log : (s.leaveHandler).log = s.log := rfl
@[simp] theorem State.leaveHandler_tasks : (s.leaveHandler).tasks = s.tasks := rfl
@[simp] theorem State.leaveHandler_holder : (s.leaveHandler).holder = s.holder := rfl
@[simp] theorem State.leaveHandler_mem : (s.leaveHandler).mem = s.mem := rfl
@[simp] theorem State.leaveHandler_params : (s.leaveHandler).params = s.params := rfl
@[simp] theorem State.leaveHandler_window : (s.leaveHandler).window = s.window := rfl
@[simp] theorem State.leaveHandler_deferOwn : (s.leaveHandler).deferOwn = s.deferOwn := rfl
@[simp] theorem State.leaveHandler_ret : (s.leaveHandler).ret = s.ret := rfl
@[simp] theorem State.leaveHandler_sched : (s.leaveHandler).sched = s.sched := rfl
@[simp] theorem State.leaveHandler_draws : (s.leaveHandler).draws = s.draws := rfl

/-! `setFlag` -/

@[simp] theorem State.setFlag_rx : (s.setFlag).rx = s.rx := rfl
@[simp] theorem State.setFlag_tx : (s.setFlag).tx = s.tx := rfl
@[simp] theorem State.setFlag_ch : (s.setFlag).ch = s.ch := rfl
@[simp] theorem State.setFlag_rde : (s.setFlag).rde = s.rde := rfl
@[simp] theorem State.setFlag_wre : (s.setFlag).wre = s.wre := rfl
@[simp] theorem State.setFlag_stg : (s.setFlag).stg = s.stg := rfl
@[simp] theorem State.setFlag_xfer : (s.setFlag).xfer = s.xfer := rfl
@[simp] theorem State.setFlag_outcome : (s.setFlag).outcome = s.outcome := rfl
@[simp] theorem State.setFlag_sig : (s.setFlag).sig = { s.sig with flag := true } := rfl
@[simp] theorem State.setFlag_defer : (s.setFlag).defer = s.defer := rfl
@[simp] theorem State.setFlag_irq : (s.setFlag).irq = s.irq := rfl
@[simp] theorem State.setFlag_eotPhase : (s.setFlag).eotPhase = s.eotPhase := rfl
@[simp] theorem State.setFlag_pins : (s.setFlag).pins = s.pins := rfl
@[simp] theorem State.setFlag_life : (s.setFlag).life = s.life := rfl
@[simp] theorem State.setFlag_cfg : (s.setFlag).cfg = s.cfg := rfl
@[simp] theorem State.setFlag_fault : (s.setFlag).fault = s.fault := rfl
@[simp] theorem State.setFlag_log : (s.setFlag).log = s.log := rfl
@[simp] theorem State.setFlag_tasks : (s.setFlag).tasks = s.tasks := rfl
@[simp] theorem State.setFlag_holder : (s.setFlag).holder = s.holder := rfl
@[simp] theorem State.setFlag_mem : (s.setFlag).mem = s.mem := rfl
@[simp] theorem State.setFlag_params : (s.setFlag).params = s.params := rfl
@[simp] theorem State.setFlag_window : (s.setFlag).window = s.window := rfl
@[simp] theorem State.setFlag_deferOwn : (s.setFlag).deferOwn = s.deferOwn := rfl
@[simp] theorem State.setFlag_ret : (s.setFlag).ret = s.ret := rfl
@[simp] theorem State.setFlag_sched : (s.setFlag).sched = s.sched := rfl
@[simp] theorem State.setFlag_draws : (s.setFlag).draws = s.draws := rfl

/-! `clearFlag` -/

@[simp] theorem State.clearFlag_rx : (s.clearFlag).rx = s.rx := rfl
@[simp] theorem State.clearFlag_tx : (s.clearFlag).tx = s.tx := rfl
@[simp] theorem State.clearFlag_ch : (s.clearFlag).ch = s.ch := rfl
@[simp] theorem State.clearFlag_rde : (s.clearFlag).rde = s.rde := rfl
@[simp] theorem State.clearFlag_wre : (s.clearFlag).wre = s.wre := rfl
@[simp] theorem State.clearFlag_stg : (s.clearFlag).stg = s.stg := rfl
@[simp] theorem State.clearFlag_xfer : (s.clearFlag).xfer = s.xfer := rfl
@[simp] theorem State.clearFlag_outcome : (s.clearFlag).outcome = s.outcome := rfl
@[simp] theorem State.clearFlag_sig : (s.clearFlag).sig = { s.sig with flag := false } := rfl
@[simp] theorem State.clearFlag_defer : (s.clearFlag).defer = s.defer := rfl
@[simp] theorem State.clearFlag_irq : (s.clearFlag).irq = s.irq := rfl
@[simp] theorem State.clearFlag_eotPhase : (s.clearFlag).eotPhase = s.eotPhase := rfl
@[simp] theorem State.clearFlag_pins : (s.clearFlag).pins = s.pins := rfl
@[simp] theorem State.clearFlag_life : (s.clearFlag).life = s.life := rfl
@[simp] theorem State.clearFlag_cfg : (s.clearFlag).cfg = s.cfg := rfl
@[simp] theorem State.clearFlag_fault : (s.clearFlag).fault = s.fault := rfl
@[simp] theorem State.clearFlag_log : (s.clearFlag).log = s.log := rfl
@[simp] theorem State.clearFlag_tasks : (s.clearFlag).tasks = s.tasks := rfl
@[simp] theorem State.clearFlag_holder : (s.clearFlag).holder = s.holder := rfl
@[simp] theorem State.clearFlag_mem : (s.clearFlag).mem = s.mem := rfl
@[simp] theorem State.clearFlag_params : (s.clearFlag).params = s.params := rfl
@[simp] theorem State.clearFlag_window : (s.clearFlag).window = s.window := rfl
@[simp] theorem State.clearFlag_deferOwn : (s.clearFlag).deferOwn = s.deferOwn := rfl
@[simp] theorem State.clearFlag_ret : (s.clearFlag).ret = s.ret := rfl
@[simp] theorem State.clearFlag_sched : (s.clearFlag).sched = s.sched := rfl
@[simp] theorem State.clearFlag_draws : (s.clearFlag).draws = s.draws := rfl

/-! `csEdge` -/

@[simp] theorem State.csEdge_rx (old new : Level) : (s.csEdge old new).rx = s.rx := by unfold State.csEdge; split <;> rfl
@[simp] theorem State.csEdge_tx (old new : Level) : (s.csEdge old new).tx = s.tx := by unfold State.csEdge; split <;> rfl
@[simp] theorem State.csEdge_ch (old new : Level) : (s.csEdge old new).ch = s.ch := by unfold State.csEdge; split <;> rfl
@[simp] theorem State.csEdge_rde (old new : Level) : (s.csEdge old new).rde = s.rde := by unfold State.csEdge; split <;> rfl
@[simp] theorem State.csEdge_wre (old new : Level) : (s.csEdge old new).wre = s.wre := by unfold State.csEdge; split <;> rfl
@[simp] theorem State.csEdge_stg (old new : Level) : (s.csEdge old new).stg = s.stg := by unfold State.csEdge; split <;> rfl
@[simp] theorem State.csEdge_xfer (old new : Level) : (s.csEdge old new).xfer = s.xfer := by unfold State.csEdge; split <;> rfl
@[simp] theorem State.csEdge_outcome (old new : Level) : (s.csEdge old new).outcome = s.outcome := by unfold State.csEdge; split <;> rfl
@[simp] theorem State.csEdge_sig (old new : Level) : (s.csEdge old new).sig = s.sig := by unfold State.csEdge; split <;> rfl
@[simp] theorem State.csEdge_defer (old new : Level) : (s.csEdge old new).defer = s.defer := by unfold State.csEdge; split <;> rfl
@[simp] theorem State.csEdge_eotPhase (old new : Level) : (s.csEdge old new).eotPhase = s.eotPhase := by unfold State.csEdge; split <;> rfl
@[simp] theorem State.csEdge_pins (old new : Level) : (s.csEdge old new).pins = s.pins := by unfold State.csEdge; split <;> rfl
@[simp] theorem State.csEdge_life (old new : Level) : (s.csEdge old new).life = s.life := by unfold State.csEdge; split <;> rfl
@[simp] theorem State.csEdge_cfg (old new : Level) : (s.csEdge old new).cfg = s.cfg := by unfold State.csEdge; split <;> rfl
@[simp] theorem State.csEdge_fault (old new : Level) : (s.csEdge old new).fault = s.fault := by unfold State.csEdge; split <;> rfl
@[simp] theorem State.csEdge_log (old new : Level) : (s.csEdge old new).log = s.log := by unfold State.csEdge; split <;> rfl
@[simp] theorem State.csEdge_tasks (old new : Level) : (s.csEdge old new).tasks = s.tasks := by unfold State.csEdge; split <;> rfl
@[simp] theorem State.csEdge_holder (old new : Level) : (s.csEdge old new).holder = s.holder := by unfold State.csEdge; split <;> rfl
@[simp] theorem State.csEdge_mem (old new : Level) : (s.csEdge old new).mem = s.mem := by unfold State.csEdge; split <;> rfl
@[simp] theorem State.csEdge_params (old new : Level) : (s.csEdge old new).params = s.params := by unfold State.csEdge; split <;> rfl
@[simp] theorem State.csEdge_window (old new : Level) : (s.csEdge old new).window = s.window := by unfold State.csEdge; split <;> rfl
@[simp] theorem State.csEdge_deferOwn (old new : Level) : (s.csEdge old new).deferOwn = s.deferOwn := by unfold State.csEdge; split <;> rfl
@[simp] theorem State.csEdge_ret (old new : Level) : (s.csEdge old new).ret = s.ret := by unfold State.csEdge; split <;> rfl
@[simp] theorem State.csEdge_sched (old new : Level) : (s.csEdge old new).sched = s.sched := by unfold State.csEdge; split <;> rfl
@[simp] theorem State.csEdge_draws (old new : Level) : (s.csEdge old new).draws = s.draws := by unfold State.csEdge; split <;> rfl

/-! The updates whose new value depends on a case -/

@[simp] theorem State.chan_setChan (c : Channel) (ws : List Word) : (s.setChan c ws).chan c = ws := by cases c <;> rfl

theorem State.chan_setChan_of_ne {c c' : Channel} (ws : List Word) (h : c' ≠ c) : (s.setChan c ws).chan c' = s.chan c' := by
  cases c <;> cases c' <;> first | rfl | exact absurd rfl h

@[simp] theorem State.chan_put (c : Channel) (w : Word) : (s.put c w).chan c = s.chan c ++ [w] := s.chan_setChan c _

@[simp] theorem State.chan_pop (c : Channel) : (s.pop c).chan c = (s.chan c).tail := s.chan_setChan c _

@[simp] theorem State.chan_flush (c : Channel) : (s.flush c).chan c = [] := s.chan_setChan c _

theorem State.configWre_wre (data : List Byte) (n : Word) :
    (s.configWre data n).wre = if s.cfg.duplex then ⟨s.wre.active, true, data, n, 0⟩ else s.wre := by
  unfold State.configWre; split <;> rfl

theorem State.activateWre_wre :
    s.activateWre.wre = if s.cfg.duplex then { s.wre with active := true } else s.wre := by
  unfold State.activateWre; split <;> rfl

theorem State.deactivateWre_wre :
    s.deactivateWre.wre = if s.cfg.duplex then { s.wre with active := false } else s.wre := by
  unfold State.deactivateWre; split <;> rfl

@[simp] theorem State.deactivateSeq_rx_rx : (s.deactivateSeq .rx).rx = { s.rx with active := false } := rfl

@[simp] theorem State.deactivateSeq_rx_tx : (s.deactivateSeq .rx).tx = s.tx := rfl

@[simp] theorem State.deactivateSeq_tx_rx : (s.deactivateSeq .tx).rx = s.rx := by
  simp only [State.deactivateSeq]; split <;> rfl

theorem State.deactivateSeq_tx_tx :
    (s.deactivateSeq .tx).tx = if s.cfg.duplex then { s.tx with active := false } else s.tx := by
  simp only [State.deactivateSeq]; split <;> rfl

@[simp] theorem State.restartSeq_rx_rx : (s.restartSeq .rx).rx = ⟨0, 0, 0, 0, s.rx.active⟩ := rfl

@[simp] theorem State.restartSeq_rx_tx : (s.restartSeq .rx).tx = s.tx := rfl

@[simp] theorem State.restartSeq_tx_rx : (s.restartSeq .tx).rx = s.rx := by
  simp only [State.restartSeq]; split <;> rfl

theorem State.restartSeq_tx_tx :
    (s.restartSeq .tx).tx = if s.cfg.duplex then ⟨0, 0, 0, s.tx.active⟩ else s.tx := by
  simp only [State.restartSeq]; split <;> rfl

@[simp] theorem State.activateSeq_rx_rx : (s.activateSeq .rx).rx = { s.rx with active := true } := rfl

@[simp] theorem State.activateSeq_rx_tx : (s.activateSeq .rx).tx = s.tx := rfl

@[simp] theorem State.activateSeq_tx_rx : (s.activateSeq .tx).rx = s.rx := by
  simp only [State.activateSeq]; split <;> rfl

theorem State.activateSeq_tx_tx :
    (s.activateSeq .tx).tx = if s.cfg.duplex then { s.tx with active := true } else s.tx := by
  simp only [State.activateSeq]; split <;> rfl

/-- What stopping everything leaves. -/
theorem State.stopAll_eq :
    s.stopAll =
      { s with
        rde := { s.rde with active := false }
        wre := if s.cfg.duplex then { s.wre with active := false } else s.wre
        rx := { s.rx with active := false }
        tx := if s.cfg.duplex then { s.tx with active := false } else s.tx } := by
  rcases h : s.cfg.duplex <;> simp [State.stopAll, State.deactivateRde, State.deactivateWre, State.deactivateSeq, h]

end Sys2Proof.Machine
end

