-- ==== Sys2Proof/Laws/Tab.lean ====
section
/-! SUPPORT. The laws of tables in canonical form: reading after writing, and that writing keeps the form. -/

namespace Sys2Proof.Machine

variable {β : Type} [DecidableEq β] {d : β}

theorem Tab.wf_cons {k : Nat} {v : β} {m : List (Nat × β)} :
    Tab.wf d ((k, v) :: m) = true ↔ v ≠ d ∧ (∀ e ∈ m, k < e.1) ∧ Tab.wf d m = true := by
  simp [Tab.wf, and_assoc]

omit [DecidableEq β] in
/-- A key below every listed key reads as the unlisted value. -/
theorem Tab.get_below {k : Nat} {m : List (Nat × β)} (h : ∀ e ∈ m, k < e.1) : Tab.get d m k = d := by
  induction m with
  | nil => rfl
  | cons e m ih =>
    obtain ⟨k', v'⟩ := e
    have : k < k' := h (k', v') (by simp)
    rw [Tab.get, if_neg (by omega)]
    exact ih fun e he => h e (by simp [he])

theorem Tab.get_cons {k k' : Nat} {v : β} {m : List (Nat × β)} (h : ∀ e ∈ m, k < e.1) :
    Tab.get d (Tab.cons d k v m) k' = if k' = k then v else Tab.get d m k' := by
  unfold Tab.cons
  split
  · rename_i hv
    split
    · rename_i hk
      rw [hk, Tab.get_below h, hv]
    · rfl
  · rfl

/-- Reading after writing: the value written at the key, every other key as before. -/
theorem Tab.get_set {k k' : Nat} {v : β} {m : List (Nat × β)} (hm : Tab.wf d m = true) :
    Tab.get d (Tab.set d m k v) k' = if k' = k then v else Tab.get d m k' := by
  induction m with
  | nil => exact Tab.get_cons (by simp)
  | cons e m ih =>
    obtain ⟨k₀, v₀⟩ := e
    obtain ⟨_, hlow, hm'⟩ := Tab.wf_cons.mp hm
    rw [Tab.set]
    split
    · rename_i hlt
      exact Tab.get_cons (by
        intro e he
        rcases List.mem_cons.mp he with rfl | he
        · exact hlt
        · exact Nat.lt_trans hlt (hlow e he))
    · split
      · rename_i heq
        rw [Tab.get_cons (by rw [heq]; exact hlow), Tab.get]
        by_cases h : k' = k
        · simp [h]
        · simp [h, show ¬k' = k₀ from fun h' => h (h'.trans heq.symm)]
      · rw [Tab.get, ih hm', Tab.get]
        by_cases h : k' = k₀
        · subst h
          rename_i hne
          simp [show ¬k' = k from fun h' => hne h'.symm]
        · simp [h]

theorem Tab.mem_set {k : Nat} {v : β} {m : List (Nat × β)} {e : Nat × β} (he : e ∈ Tab.set d m k v) :
    e.1 = k ∨ e ∈ m := by
  induction m with
  | nil =>
    rw [Tab.set, Tab.cons] at he
    split at he <;> simp_all
  | cons e₀ m ih =>
    obtain ⟨k₀, v₀⟩ := e₀
    rw [Tab.set, Tab.cons, Tab.cons] at he
    split at he
    · split at he <;> simp at he ⊢ <;> aesop
    · split at he
      · split at he <;> simp at he ⊢ <;> aesop
      · simp at he ⊢
        rcases he with he | he
        · exact .inr (.inl he)
        · rcases ih he with h | h
          · exact .inl h
          · exact .inr (.inr h)

/-- Writing keeps the canonical form. -/
theorem Tab.wf_set {k : Nat} {v : β} {m : List (Nat × β)} (hm : Tab.wf d m = true) :
    Tab.wf d (Tab.set d m k v) = true := by
  induction m with
  | nil =>
    rw [Tab.set, Tab.cons]
    split
    · rfl
    · exact Tab.wf_cons.mpr ⟨‹_›, by simp, rfl⟩
  | cons e m ih =>
    obtain ⟨k₀, v₀⟩ := e
    obtain ⟨hv₀, hlow, hm'⟩ := Tab.wf_cons.mp hm
    rw [Tab.set]
    split
    · rename_i hlt
      rw [Tab.cons]
      split
      · exact hm
      · refine Tab.wf_cons.mpr ⟨‹_›, ?_, hm⟩
        intro e he
        rcases List.mem_cons.mp he with rfl | he
        · exact hlt
        · exact Nat.lt_trans hlt (hlow e he)
    · split
      · rename_i heq
        rw [Tab.cons]
        split
        · exact hm'
        · exact Tab.wf_cons.mpr ⟨‹_›, by rw [heq]; exact hlow, hm'⟩
      · refine Tab.wf_cons.mpr ⟨hv₀, ?_, ih hm'⟩
        intro e he
        rcases Tab.mem_set he with h | h
        · omega
        · exact hlow e h

/-- Putting the value that is already there changes nothing. -/
theorem Tab.set_of_get {v : β} {k : Nat} {m : List (Nat × β)} (hm : Tab.wf d m = true) (hg : Tab.get d m k = v) :
    Tab.set d m k v = m := by
  induction m with
  | nil => simp only [Tab.get] at hg; simp [Tab.set, Tab.cons, hg]
  | cons e m ih =>
    obtain ⟨k₀, v₀⟩ := e
    obtain ⟨hv₀, hlow, hm'⟩ := Tab.wf_cons.mp hm
    rw [Tab.get] at hg
    by_cases hlt : k < k₀
    · rw [if_neg (by omega), Tab.get_below fun e he => Nat.lt_trans hlt (hlow e he)] at hg
      simp [Tab.set, hlt, Tab.cons, hg]
    · by_cases heq : k = k₀
      · subst heq
        simp only [if_true] at hg
        subst hg
        simp [Tab.set, Tab.cons, hv₀]
      · rw [if_neg heq] at hg
        simp [Tab.set, hlt, heq, ih hm' hg]

end Sys2Proof.Machine
end

