-- ==== Sys2Proof/Laws/Ops.lean ====
section
/-! SUPPORT. For each shared operation, everything it can do, said once: proofs cite these lemmas rather than unfold the
operations. -/

namespace Sys2Proof.Machine

variable {s t : State}

/-! The frames of the agents' steps -/

/-- An RX step that answers a next state: a hold, a reserved state recorded, or its effect. -/
theorem rxStep_next {enabled : Bool} {after : State} (h : rxStep s enabled after = .next t) :
    (t = s ∧ (s.rxReady = false ∨ enabled = false)) ∨
    (t = { s with fault := some (s.fault.getD .reservedState) } ∧ s.rxReady = true ∧ rxReserved s.rx.state = true) ∨
    (t = after ∧ s.rxReady = true ∧ rxReserved s.rx.state = false ∧ enabled = true) := by
  simp only [rxStep, hold, raise] at h
  split at h
  · exact .inl ⟨by injection h with h; exact h.symm, .inl (by simp_all)⟩
  · split at h
    · exact .inr (.inl ⟨by injection h with h; exact h.symm, by simp_all, ‹_›⟩)
    · split at h
      · exact .inr (.inr ⟨by injection h with h; exact h.symm, by simp_all, by simp_all, ‹_›⟩)
      · exact .inl ⟨by injection h with h; exact h.symm, .inr (by simp_all)⟩

/-- A TX step that answers a next state: a hold, a reserved state recorded, or its effect. -/
theorem txStep_next {enabled : Bool} {after : State} (h : txStep s enabled after = .next t) :
    (t = s ∧ (s.txReady = false ∨ enabled = false)) ∨
    (t = { s with fault := some (s.fault.getD .reservedState) } ∧ s.txReady = true ∧ txReserved s.tx.state = true) ∨
    (t = after ∧ s.txReady = true ∧ txReserved s.tx.state = false ∧ enabled = true) := by
  simp only [txStep, hold, raise] at h
  split at h
  · exact .inl ⟨by injection h with h; exact h.symm, .inl (by simp_all)⟩
  · split at h
    · exact .inr (.inl ⟨by injection h with h; exact h.symm, by simp_all, ‹_›⟩)
    · split at h
      · exact .inr (.inr ⟨by injection h with h; exact h.symm, by simp_all, by simp_all, ‹_›⟩)
      · exact .inl ⟨by injection h with h; exact h.symm, .inr (by simp_all)⟩

/-- A handler step that answers a next state: a hold, a reserved phase recorded, or its own outcome. -/
theorem eotStep_next {enabled : Bool} {out : Out} (h : eotStep s enabled out = .next t) :
    (t = s ∧ (s.liveAndSound = false ∨ enabled = false)) ∨
    (t = { s with fault := some (s.fault.getD .reservedState) } ∧ s.liveAndSound = true ∧ phaseReserved s.eotPhase = true) ∨
    (out = .next t ∧ s.liveAndSound = true ∧ phaseReserved s.eotPhase = false ∧ enabled = true) := by
  simp only [eotStep, hold, raise] at h
  split at h
  · exact .inl ⟨by injection h with h; exact h.symm, .inl (by simp_all)⟩
  · split at h
    · exact .inr (.inl ⟨by injection h with h; exact h.symm, by simp_all, ‹_›⟩)
    · split at h
      · exact .inr (.inr ⟨h, by simp_all, by simp_all, ‹_›⟩)
      · exact .inl ⟨by injection h with h; exact h.symm, .inr (by simp_all)⟩

/-- A control primitive that answers a next state: a hold or its effect. -/
theorem primStep_next {enabled : Bool} {after : State} (h : primStep s enabled after = .next t) :
    t = s ∨ (t = after ∧ s.liveAndSound = true ∧ enabled = true) := by
  simp only [primStep, hold] at h
  split at h
  · rename_i hc
    exact .inr ⟨by injection h with h; exact h.symm, by simpa using hc⟩
  · exact .inl (by injection h with h; exact h.symm)

/-- A step of the master that answers a next state: a hold or its effect. -/
theorem wireStep_next {after : State} (h : wireStep s after = .next t) :
    (t = s ∧ s.fault ≠ none) ∨ (t = after ∧ s.fault = none) := by
  simp only [wireStep, hold] at h
  split at h
  · exact .inr ⟨by injection h with h; exact h.symm, by simp_all⟩
  · exact .inl ⟨by injection h with h; exact h.symm, by simp_all⟩

/-- The start of a command that answers a next state: a hold, a lifecycle fault, or its own outcome on a live device. -/
theorem startChecked_next {task : TaskId} {go : Out} (h : startChecked task s go = .next t) :
    (t = s ∧ s.mayStart task = false) ∨
    (∃ f, s.lifeCheck = some f ∧ t = { s with fault := some (s.fault.getD f) }) ∨
    (go = .next t ∧ s.mayStart task = true ∧ s.life = .live) := by
  simp only [startChecked, hold, raise] at h
  split at h
  · split at h
    · exact .inr (.inl ⟨_, ‹_›, by injection h with h; exact h.symm⟩)
    · rename_i hl
      refine .inr (.inr ⟨h, ‹_›, ?_⟩)
      unfold State.lifeCheck at hl
      split at hl <;> simp_all
  · exact .inl ⟨by injection h with h; exact h.symm, by simp_all⟩

/-- What raising a fault leaves. -/
theorem raise_next {code : FaultCode} (h : raise code s = .next t) : t = { s with fault := some (s.fault.getD code) } := by
  simp only [raise] at h; injection h with h; exact h.symm

/-- What returning an error leaves. -/
theorem returnError_next {task : TaskId} {e : ErrorCode} (h : returnError task e s = .next t) :
    t = (s.endCommand task).logEvent (.error task e) := by
  simp only [returnError] at h; injection h with h; exact h.symm

/-- What returning a view leaves: a fault on a negative count, or the value logged. -/
theorem returnView_next {task : TaskId} {n : Int} (h : returnView task n s = .next t) :
    (n < 0 ∧ t = { s with fault := some (s.fault.getD .countNegative) }) ∨
    (0 ≤ n ∧ t = s.returnValue task (.view s.cfg.buf n.toNat)) := by
  simp only [returnView] at h
  split at h
  · exact .inl ⟨‹_›, raise_next h⟩
  · exact .inr ⟨by omega, by injection h with h; exact h.symm⟩

/-- Phase A1 that answers a next state: a fault, the error, or every agent stopped and every channel flushed. -/
theorem armA1_next {task : TaskId} {c : Command} (h : armA1 task c s = .next t) :
    (∃ f, armFault c s = some f ∧ t = { s with fault := some (s.fault.getD f) }) ∨
    (armFault c s = none ∧ t = (s.endCommand task).logEvent (.error task .noCallback)) ∨
    (armFault c s = none ∧ t = s.stopAll.flushAll.atPhase task c (.arming .a2)) := by
  simp only [armA1] at h
  split at h
  · exact .inl ⟨_, ‹_›, raise_next h⟩
  · split at h
    · exact .inr (.inl ⟨‹_›, returnError_next h⟩)
    · exact .inr (.inr ⟨‹_›, by injection h with h; exact h.symm⟩)

/-- Phase A7 that answers a next state: a hold on a full channel, or the budget put and the command gone on. -/
theorem armA7_next {task : TaskId} {c : Command} (h : armA7 task c s = .next t) :
    (t = s ∧ s.chanFull .rxin = true) ∨
    (s.chanFull .rxin = false ∧ t = armDone task c (s.put .rxin (BitVec.ofNat 32 (armBudget s.cfg c)))) := by
  simp only [armA7, hold] at h
  split at h
  · exact .inl ⟨by injection h with h; exact h.symm, ‹_›⟩
  · exact .inr ⟨by simp_all, by injection h with h; exact h.symm⟩

/-- ARM that answers a next state: a hold, its first phase for a free task, or the phase its task's command is at. -/
theorem execArm_next {task : TaskId} {dst : Addr} {b : Word} {mode : ArmMode} (h : execArm task dst b mode s = .next t) :
    t = s ∨ (s.mayStart task = true ∧ armPhase task (.arm dst b mode) .a1 s = .next t) ∨
    (∃ c k, s.mayContinue task = true ∧ s.task task = .busy c (.arming k) ∧ armPhase task c k s = .next t) := by
  simp only [execArm, hold] at h
  split at h
  · exact .inr (.inl ⟨‹_›, h⟩)
  · split at h
    · split at h
      · exact .inr (.inr ⟨_, _, ‹_›, ‹_›, h⟩)
      · exact .inl (by injection h with h; exact h.symm)
    · exact .inl (by injection h with h; exact h.symm)

/-! What the conditions say -/

theorem State.liveAndSound_iff : s.liveAndSound = true ↔ s.life = .live ∧ s.fault = none := by
  simp [State.liveAndSound]

theorem State.rxReady_iff : s.rxReady = true ↔ (s.life = .live ∧ s.fault = none) ∧ s.rx.active = true := by
  simp [State.rxReady, State.liveAndSound_iff]

theorem State.txReady_iff :
    s.txReady = true ↔ (s.life = .live ∧ s.fault = none) ∧ s.tx.active = true ∧ s.cfg.duplex = true := by
  simp [State.txReady, State.liveAndSound_iff, and_assoc]

theorem State.hostReady_iff : s.hostReady = true ↔ s.fault = none ∧ s.eotPhase = 0 := by
  simp [State.hostReady]

theorem State.mayStart_iff {task : TaskId} :
    s.mayStart task = true ↔ s.fault = none ∧ s.eotPhase = 0 ∧ s.holder = none ∧ s.task task = .idle := by
  simp [State.mayStart, State.hostReady_iff, and_assoc]

theorem State.mayContinue_iff {task : TaskId} :
    s.mayContinue task = true ↔ s.fault = none ∧ s.eotPhase = 0 ∧ s.holder = some task := by
  simp [State.mayContinue, State.hostReady_iff, and_assoc]

theorem State.chanFull_eq_false {c : Channel} : s.chanFull c = false ↔ (s.chan c).length < s.params.depth := by
  rw [State.chanFull, decide_eq_false_iff_not, Nat.not_le]

theorem State.chanEmpty_eq_false {c : Channel} : s.chanEmpty c = false ↔ s.chan c ≠ [] := by
  rw [State.chanEmpty, List.isEmpty_eq_false_iff]

/-! Tasks -/

/-- TASK after an update of one task, in a state whose task table has its form. -/
theorem State.task_setTask {k k' : TaskId} {x : TaskState} (h : Tab.wf .idle s.tasks = true) :
    (s.setTask k x).task k' = if k' = k then x else s.task k' := Tab.get_set h

theorem State.task_atPhase {k k' : TaskId} {c : Command} {p : Phase} (h : Tab.wf .idle s.tasks = true) :
    (s.atPhase k c p).task k' = if k' = k then .busy c p else s.task k' := Tab.get_set h

theorem State.task_endCommand {k k' : TaskId} (h : Tab.wf .idle s.tasks = true) :
    (s.endCommand k).task k' = if k' = k then .idle else s.task k' := Tab.get_set h

/-- An idle task's table entry does not change when the task is set idle. -/
theorem State.setTask_idle {k : TaskId} (h : Tab.wf .idle s.tasks = true) (hk : s.task k = .idle) :
    s.setTask k .idle = s := by
  rw [State.setTask, Tab.set_of_get h hk]

/-- A command of one phase that a free task takes leaves the scheduler as it was. -/
theorem State.endCommand_of_free {k : TaskId} (h : Tab.wf .idle s.tasks = true) (hk : s.task k = .idle)
    (hh : s.holder = none) : s.endCommand k = s := by
  rw [State.endCommand, State.setTask_idle h hk, ← hh]

/-! Host reads and the schedule -/

/-- A host's read changes only the count of free values. -/
theorem State.hostRead_snd (a : Addr) : ∃ n, (s.hostRead a).2 = { s with draws := n } := by
  unfold State.hostRead
  split
  · exact ⟨_, rfl⟩
  · exact ⟨s.draws, rfl⟩

/-- A host's read outside a race is the byte of memory, and changes nothing. -/
theorem State.hostRead_of_not_raced {a : Addr} (h : s.raced a = false) : s.hostRead a = (s.memRead a, s) := by
  simp [State.hostRead, h]

/-- A host's read in a race is a free byte. -/
theorem State.hostRead_of_raced {a : Addr} (h : s.raced a = true) :
    s.hostRead a = (Config.freeByte s.draws, { s with draws := s.draws + 1 }) := by
  simp [State.hostRead, h]

/-- Reading many bytes changes only the count of free values. -/
theorem State.hostReadMany_snd (n : Nat) (a : Addr) (s : State) : ∃ k, (State.hostReadMany n a s).2 = { s with draws := k } := by
  induction n generalizing a s with
  | zero => exact ⟨s.draws, rfl⟩
  | succ n ih =>
    obtain ⟨k, hk⟩ := State.hostRead_snd (s := s) a
    obtain ⟨k', hk'⟩ := ih (a + 1) (s.hostRead a).2
    exact ⟨k', by rw [State.hostReadMany, hk', hk]⟩

/-- As many bytes are read as were asked for. -/
theorem State.hostReadMany_length (n : Nat) (a : Addr) (s : State) : (State.hostReadMany n a s).1.length = n := by
  induction n generalizing a s with
  | zero => rfl
  | succ n ih => simp [State.hostReadMany, ih]

/-- Taking WRE's next byte changes only the count of free values. -/
theorem State.wreTake_snd (s : State) : ∃ n, s.wreTake.2 = { s with draws := n } := by
  unfold State.wreTake
  split
  · exact ⟨s.draws, rfl⟩
  · exact ⟨_, rfl⟩

/-- Inside its data WRE's next byte is the one at WRE.idx, and nothing is drawn. -/
theorem State.wreTake_of_some {b : Byte} (h : s.wre.data[s.wre.idx.toNat]? = some b) : s.wreTake = (b, s) := by
  simp [State.wreTake, h]

/-- Fetching changes only the schedule and the count of free values. -/
theorem fetch_snd (s : State) : ∃ l n, (fetch s).2 = { s with sched := l, draws := n } := by
  unfold fetch
  split
  · exact ⟨s.sched, s.draws + 1, rfl⟩
  · exact ⟨_, s.draws, rfl⟩

/-! Memory -/

/-- Reading after a write: the byte written at its address, every other byte as before. -/
theorem State.memRead_memWrite {a a' : Addr} {b : Byte} (h : s.mem.wf = true) :
    (s.memWrite a b).memRead a' = if a' = a then b else s.memRead a' := by
  have hw : Tab.wf Memory.unlisted s.mem = true := by
    simp only [Memory.wf, Bool.and_eq_true] at h; exact h.1
  simp only [State.memRead, State.memWrite, Tab.get_set hw, BitVec.toNat_inj]

/-- A write keeps memory's canonical form. -/
theorem State.memWrite_wf {a : Addr} {b : Byte} (h : s.mem.wf = true) : (s.memWrite a b).mem.wf = true := by
  simp only [Memory.wf, Bool.and_eq_true, List.all_eq_true, decide_eq_true_eq, State.memWrite] at h ⊢
  refine ⟨Tab.wf_set h.1, fun e he => ?_⟩
  rcases Tab.mem_set he with hk | hk
  · rw [hk]; exact a.isLt
  · exact h.2 e hk

/-- Memory lists nothing at reset, so it has its canonical form. -/
theorem reset_mem_wf : State.reset.mem.wf = true := rfl

end Sys2Proof.Machine
end

