-- ==== Sys2Proof/Laws/Effects.lean ====
section
/-! SUPPORT. What a step can do, said once: it holds, it records a fault and nothing else, or it has one of the effects listed
here, each under its condition. Whole-machine statements go through `exec_effect` rather than unfold the steps. -/

namespace Sys2Proof.Machine

/-- Task k may start a command. -/
abbrev State.Starts (s : State) (k : TaskId) : Prop := s.fault = none ∧ s.eotPhase = 0 ∧ s.holder = none ∧ s.task k = .idle

/-- Task k is at this phase of this command. -/
abbrev State.Continues (s : State) (k : TaskId) (c : Command) (p : Phase) : Prop :=
  s.fault = none ∧ s.eotPhase = 0 ∧ s.holder = some k ∧ s.task k = .busy c p

/-- LIFE is LIVE and FAULT is NONE. -/
abbrev State.IsLive (s : State) : Prop := s.life = .live ∧ s.fault = none

/-- The effects of a phase of ARM, from the state before to the state after. -/
inductive ArmEffect (k : TaskId) (c : Command) (s : State) : ArmPhase → State → Prop
  | error : s.life = .live → s.fault = none → s.sig.waiter = none →
      ArmEffect k c s .a1 ((s.endCommand k).logEvent (.error k .noCallback))
  | a1 : s.life = .live → s.fault = none → s.sig.waiter = none → 1 ≤ armBudget s.cfg c →
      armBudget s.cfg c ≤ maxBudget s.params.w → ArmEffect k c s .a1 (s.stopAll.flushAll.atPhase k c (.arming .a2))
  | a2 : ArmEffect k c s .a2 ((armA2 k c s).atPhase k c (.arming .a3))
  | a3 : ArmEffect k c s .a3 ((armA3 c s).atPhase k c (.arming .a4))
  | a4 : ArmEffect k c s .a4 ((armA4 c s).atPhase k c (.arming .a5))
  | a5 : ArmEffect k c s .a5 ((armA5 s).atPhase k c (.arming .a6))
  | a6 : ArmEffect k c s .a6 ((armA6 s).atPhase k c (.arming .a7))
  | a7 : s.chanFull .rxin = false →
      ArmEffect k c s .a7 (armDone k c (s.put .rxin (BitVec.ofNat 32 (armBudget s.cfg c))))

/-- The effects of the steps, from the state before to the state after. -/
inductive Effect (s : State) : Instr → State → Prop
  | construct {k cap buf index pins cb irq} : s.Starts k → s.life = .unbuilt → irq = .soft →
      Effect s (.construct k cap buf index pins cb irq) (s.built (cfgOf cap buf index pins cb irq))
  | armStart {k dst b mode t} : s.Starts k → ArmEffect k (.arm dst b mode) s .a1 t → Effect s (.arm k dst b mode) t
  | armPhase {k dst b mode c p t} : s.Continues k c (.arming p) → ArmEffect k c s p t → Effect s (.arm k dst b mode) t
  | write {k src len repeats n bs} : s.Starts k → s.life = .live → s.cfg.duplex = true → -1 ≤ repeats →
      (State.hostReadMany len src s).1 = bs →
      Effect s (.write k src len repeats) ({ s with stg := ⟨true, bs, repeats⟩, draws := n }.endCommand k)
  | readError {k} : s.Starts k → s.life = .live → Effect s (.read k) ((s.endCommand k).logEvent (.error k .noBuffer))
  | read {k} : s.Starts k → s.life = .live → s.cfg.cap ≠ none → Effect s (.read k) (s.atPhase k .read (.arming .a1))
  | readSpin {k} : s.Continues k .read .spinning → Effect s (.read k) (s.setTask k .spin)
  | readReturn {k n} : s.Continues k .read (.returning n) → 0 ≤ n →
      Effect s (.read k) (s.returnValue k (.view s.cfg.buf n.toNat))
  | readIntoError {k dst len} : s.Starts k → s.life = .live →
      Effect s (.readInto k dst len) ((s.endCommand k).logEvent (.error k .noCallback))
  | readInto {k dst len} : s.Starts k → s.life = .live → s.cfg.hasCb = true →
      Effect s (.readInto k dst len) (s.atPhase k (.readInto dst len) (.arming .a1))
  | readIntoReturn {k dst len d l} : s.Continues k (.readInto d l) .leaving → Effect s (.readInto k dst len) (s.endCommand k)
  | asReadInto {k dst len} : s.Starts k → s.life = .live →
      Effect s (.asReadInto k dst len) (s.atPhase k (.asReadInto dst len) (.arming .a1))
  | asReadIntoReturn {k dst len d l n} : s.Continues k (.asReadInto d l) (.returning n) →
      Effect s (.asReadInto k dst len) (s.returnValue k (.count n))
  | iterError {k} : s.Starts k → s.life = .live → Effect s (.iterStep k) ((s.endCommand k).logEvent (.error k .noBuffer))
  | iterStep {k} : s.Starts k → s.life = .live → s.cfg.cap ≠ none →
      Effect s (.iterStep k) (s.atPhase k .iterStep (.arming .a1))
  | iterReturn {k n} : s.Continues k .iterStep (.returning n) → 0 ≤ n →
      Effect s (.iterStep k) (s.returnValue k (.view s.cfg.buf n.toNat))
  | deinit {k} : s.Starts k → s.life ≠ .unbuilt →
      Effect s (.deinit k) ({ s.stopAll with irq := ⟨false, false⟩, life := .dead }.endCommand k)
  | outcomeRead {k n} : s.Starts k → s.life = .live → s.outcome = some n →
      Effect s (.outcomeRead k) (s.returnValue k (.count n))
  | outcomePhase {k c n} : s.Continues k c .outcome → s.outcome = some n →
      Effect s (.outcomeRead k) (s.atPhase k c (.returning n))
  | memRead {k addr n b} : s.Starts k → s.hostRead addr = (b, { s with draws := n }) →
      Effect s (.memRead k addr) ({ s with draws := n }.returnValue k (.byte b))
  | rxAwaitBudget : s.rxReady = true → s.rx.state = 0 → s.ch.rxin ≠ [] →
      Effect s .rxAwaitBudget { s.pop .rxin with rx := { s.rx with r := s.headWord .rxin, state := 1 } }
  | rxAwaitCsHigh : s.rxReady = true → s.rx.state = 1 → s.pins.cs = 1 →
      Effect s .rxAwaitCsHigh { s with rx := { s.rx with state := 2 } }
  | rxAwaitCsLow : s.rxReady = true → s.rx.state = 2 → s.pins.cs = 0 →
      Effect s .rxAwaitCsLow { s with rx := { s.rx with bits := 8, shift := 0, state := 3 } }
  | rxWaitRise : s.rxReady = true → s.rx.state = 3 → s.pins.sck = 1 →
      Effect s .rxWaitRise
        { s with rx := { s.rx with shift := shiftIn s.rx.shift s.pins.mosi, bits := s.rx.bits - 1, state := 4 } }
  | rxWaitFall : s.rxReady = true → s.rx.state = 4 → s.pins.sck = 0 →
      Effect s .rxWaitFall { s with rx := { s.rx with state := if s.rx.bits = 0 then 5 else 3 } }
  | rxKeep : s.rxReady = true → s.rx.state = 5 → s.rx.r ≠ 0 → s.ch.rxout.length < s.params.depth →
      Effect s .rxByteDone
        { s.put .rxout (byteWord s.rx.shift) with rx := { s.rx with r := s.rx.r - 1, shift := 0, bits := 8, state := 3 } }
  | rxDiscard : s.rxReady = true → s.rx.state = 5 → s.rx.r = 0 →
      Effect s .rxByteDone { s with rx := { s.rx with r := s.rx.r - 1, shift := 0, bits := 0, state := 6 } }
  | rxEnd : s.rxReady = true → s.rx.state = 3 ∨ s.rx.state = 4 ∨ s.rx.state = 6 → s.ch.rxin ≠ [] →
      Effect s .rxEnd { s.pop .rxin with rx := { s.rx with shift := 0, bits := 0, state := 7 } }
  | rxReport : s.rxReady = true → s.rx.state = 7 → s.ch.rxout.length < s.params.depth →
      Effect s .rxReport { s.put .rxout (reportWord s.params.w s.rx.r) with rx := { s.rx with state := 0 } }
  | txAwaitCsHigh : s.txReady = true → s.tx.state = 0 → s.pins.cs = 1 →
      Effect s .txAwaitCsHigh { s with tx := { s.tx with state := 1 } }
  | txAwaitCsLow : s.txReady = true → s.tx.state = 1 → s.pins.cs = 0 →
      Effect s .txAwaitCsLow { s with tx := { s.tx with state := 2 } }
  | txLoad : s.txReady = true → s.tx.state = 2 → s.ch.txin ≠ [] →
      Effect s .txLoad
        { s.pop .txin with tx := { s.tx with shift := wordByte (s.headWord .txin), bits := 8, state := 3 } }
  | txWaitRise : s.txReady = true → s.tx.state = 3 → s.pins.sck = 1 →
      Effect s .txWaitRise
        { s.logEvent (.emit (topBit s.tx.shift)) with
          pins := { s.pins with miso := some (topBit s.tx.shift) }
          tx := { s.tx with shift := shiftIn s.tx.shift 0, bits := s.tx.bits - 1, state := 4 } }
  | txWaitFall : s.txReady = true → s.tx.state = 4 → s.pins.sck = 0 →
      Effect s .txWaitFall { s with tx := { s.tx with state := if s.tx.bits = 0 then 2 else 3 } }
  | rdeXfer : s.IsLive → s.rde.active = true → s.rde.idx.toNat < s.rde.count.toNat → s.ch.rxout ≠ [] →
      Effect s .rdeXfer
        { (((s.pop .rxout).memWrite (rdeAddr s.rde) (wordByte (s.headWord .rxout))).logEvent
            (.memw (rdeAddr s.rde) (wordByte (s.headWord .rxout)))) with
          rde := { s.rde with idx := s.rde.idx + 1 } }
  | rdeConfig {dst count} : s.IsLive → Effect s (.rdeConfig dst count) (s.configRde dst count)
  | rdeActivate : s.IsLive → Effect s .rdeActivate s.activateRde
  | rdeDeactivate : s.IsLive → Effect s .rdeDeactivate s.deactivateRde
  | wreXfer {n} : s.IsLive → s.cfg.duplex = true → s.wre.active = true → s.wre.idx.toNat < s.wre.count.toNat →
      s.ch.txin.length < s.params.depth →
      Effect s .wreXfer
        { s.put .txin (byteWord s.wreTake.1) with wre := { s.wre with idx := s.wre.idx + 1 }, draws := n }
  | wreConfig {data count} : s.IsLive → Effect s (.wreConfig data count) (s.configWre data count)
  | wreActivate : s.IsLive → Effect s .wreActivate s.activateWre
  | wreDeactivate : s.IsLive → Effect s .wreDeactivate s.deactivateWre
  | seqDeactivate {q} : s.IsLive → Effect s (.seqDeactivate q) (s.deactivateSeq q)
  | seqRestart {q} : s.IsLive → Effect s (.seqRestart q) (s.restartSeq q)
  | seqActivate {q} : s.IsLive → Effect s (.seqActivate q) (s.activateSeq q)
  | chFlush {c} : s.IsLive → Effect s (.chFlush c) (s.flush c)
  | chPut {c w} : s.IsLive → s.chanFull c = false → Effect s (.chPut c w) (s.put c w)
  | chGet {c} : s.IsLive → s.chanEmpty c = false → Effect s (.chGet c) { s.pop c with ret := .word (s.headWord c) }
  | chEmpty {c} : s.IsLive → Effect s (.chEmpty c) { s with ret := .truth (s.chanEmpty c) }
  | csdetEdge {o n} : s.fault = none → Effect s (.csdetEdge o n) (s.csEdge o n)
  | eotEntry : s.IsLive → s.irq.bound = true → s.irq.pending = true → s.eotPhase = 0 → Effect s .eotEntry s.enterHandler
  | eotStopEngines : s.IsLive → s.eotPhase = 1 →
      Effect s .eotStopEngines { s.deactivateRde.deactivateWre with eotPhase := 2 }
  | eotPlaceholder : s.IsLive → s.eotPhase = 2 → s.chanFull .rxin = false →
      Effect s .eotPlaceholder { s.put .rxin 0 with eotPhase := 3 }
  | eotSpurious : s.IsLive → s.eotPhase = 3 → s.ch.rxout = [] → Effect s .eotCheck (s.logEvent .spurious).leaveHandler
  | eotCheck : s.IsLive → s.eotPhase = 3 → s.ch.rxout ≠ [] → Effect s .eotCheck { s with eotPhase := 4 }
  | eotAccount {b} : s.IsLive → s.eotPhase = 4 → s.ch.rxout ≠ [] → s.xfer.b = some b →
      Effect s .eotAccount
        { s.pop .rxout with outcome := some (countOf s.params.w b (s.headWord .rxout)), eotPhase := 5 }
  | eotStopSeq : s.IsLive → s.eotPhase = 5 →
      Effect s .eotStopSeq { (s.deactivateSeq .rx).deactivateSeq .tx with eotPhase := 6 }
  | eotSignal : s.IsLive → s.eotPhase = 6 → Effect s .eotSignal { s.setFlag with eotPhase := 7 }
  | eotCallback : s.IsLive → s.eotPhase = 7 → s.xfer.cbReq = true → s.defer = none →
      Effect s .eotCallback { s.leaveHandler with defer := s.outcome, deferOwn := true }
  | eotLeave : s.IsLive → s.eotPhase = 7 → s.xfer.cbReq = false → Effect s .eotCallback s.leaveHandler
  | sigSet : s.IsLive → Effect s .sigSet s.setFlag
  | sigClear : s.IsLive → Effect s .sigClear s.clearFlag
  | sigWait {k c} : s.Continues k c .waiting → s.sig.waiter = none →
      Effect s (.sigWait k) { s.setTask k (.suspended c) with sig := { s.sig with waiter := some k }, holder := none }
  | sigResume {k c} : s.fault = none → s.eotPhase = 0 → s.life = .live → s.holder = none → s.sig.waiter = some k →
      s.sig.flag = true → s.task k = .suspended c →
      Effect s (.sigResume k) (({ s with sig := ⟨false, none⟩ }.observe k).atPhase k c .outcome)
  | sigPoll {k} : s.fault = none → s.eotPhase = 0 → s.holder = some k → s.task k = .spin → s.sig.flag = true →
      Effect s (.sigPoll k) ((s.clearFlag.observe k).setTask k (.busy .read .outcome))
  | deferRun {n} : s.fault = none → s.eotPhase = 0 → s.holder = none → s.defer = some n →
      Effect s .deferRun ({ s with defer := none }.observeCallback.logEvent (.callback n))
  | wireCs {v} : s.fault = none → Effect s (.wireCs v) ({ s with pins := { s.pins with cs := v } }.csEdge s.pins.cs v)
  | wireSck {v} : s.fault = none → Effect s (.wireSck v) { s with pins := { s.pins with sck := v } }
  | wireMosi {v} : s.fault = none → Effect s (.wireMosi v) { s with pins := { s.pins with mosi := v } }
  | wireSample {v n} : s.fault = none → s.draws ≤ n → Effect s .wireSample { s with ret := .level v, draws := n }

/-- What a step answers: a hold, a fault recorded and nothing else, or its effect. -/
def StepsTo (s : State) (i : Instr) (o : Out) : Prop :=
  o = .next s ∨ (∃ f, s.fault = none ∧ o = .next { s with fault := some f }) ∨ ∃ t, o = .next t ∧ Effect s i t

variable {s : State} {i : Instr} {t : State}

theorem stepsTo_hold : StepsTo s i (hold s) := .inl rfl

theorem stepsTo_raise {c : FaultCode} (h : s.fault = none) : StepsTo s i (raise c s) :=
  .inr (.inl ⟨c, h, by simp [raise, h]⟩)

theorem stepsTo_next (h : Effect s i t) : StepsTo s i (.next t) := .inr (.inr ⟨t, rfl, h⟩)

theorem stepsTo_rxStep {enabled : Bool} (h : s.rxReady = true → enabled = true → Effect s i t) :
    StepsTo s i (rxStep s enabled t) := by
  unfold rxStep
  split
  · exact stepsTo_hold
  · rename_i hr
    split
    · exact stepsTo_raise (State.rxReady_iff.mp (by simpa using hr)).1.2
    · split
      · exact stepsTo_next (h (by simpa using hr) ‹_›)
      · exact stepsTo_hold

theorem stepsTo_txStep {enabled : Bool} (h : s.txReady = true → enabled = true → Effect s i t) :
    StepsTo s i (txStep s enabled t) := by
  unfold txStep
  split
  · exact stepsTo_hold
  · rename_i hr
    split
    · exact stepsTo_raise (State.txReady_iff.mp (by simpa using hr)).1.2
    · split
      · exact stepsTo_next (h (by simpa using hr) ‹_›)
      · exact stepsTo_hold

theorem stepsTo_eotStep {enabled : Bool} {o : Out} (h : s.IsLive → enabled = true → StepsTo s i o) :
    StepsTo s i (eotStep s enabled o) := by
  unfold eotStep
  split
  · exact stepsTo_hold
  · rename_i hr
    have hl := State.liveAndSound_iff.mp (by simpa using hr)
    split
    · exact stepsTo_raise hl.2
    · split
      · exact h hl ‹_›
      · exact stepsTo_hold

theorem stepsTo_primStep {enabled : Bool} (h : s.IsLive → enabled = true → Effect s i t) :
    StepsTo s i (primStep s enabled t) := by
  unfold primStep
  split
  · rename_i hr
    rw [Bool.and_eq_true] at hr
    exact stepsTo_next (h (State.liveAndSound_iff.mp hr.1) hr.2)
  · exact stepsTo_hold

theorem stepsTo_wireStep (h : s.fault = none → Effect s i t) : StepsTo s i (wireStep s t) := by
  unfold wireStep
  split
  · rename_i hr; exact stepsTo_next (h (by simpa using hr))
  · exact stepsTo_hold

theorem stepsTo_startChecked {k : TaskId} {o : Out} (h : s.Starts k → s.life = .live → StepsTo s i o) :
    StepsTo s i (startChecked k s o) := by
  unfold startChecked
  split
  · rename_i hm
    have hm := State.mayStart_iff.mp hm
    split
    · exact stepsTo_raise hm.1
    · rename_i hl
      refine h hm ?_
      unfold State.lifeCheck at hl
      split at hl <;> simp_all
  · exact stepsTo_hold

/-- The steps of RX. -/
theorem exec_rx (hi : i.agent = .rx) : StepsTo s i (exec i s) := by
  cases i <;> simp only [Instr.agent, reduceCtorEq] at hi
  case rxAwaitBudget =>
    exact stepsTo_rxStep fun hr he => .rxAwaitBudget hr (by simp_all) (by simp_all [State.chanEmpty, State.chan])
  case rxAwaitCsHigh => exact stepsTo_rxStep fun hr he => .rxAwaitCsHigh hr (by simp_all) (by simp_all)
  case rxAwaitCsLow => exact stepsTo_rxStep fun hr he => .rxAwaitCsLow hr (by simp_all) (by simp_all)
  case rxWaitRise => exact stepsTo_rxStep fun hr he => .rxWaitRise hr (by simp_all) (by simp_all)
  case rxWaitFall => exact stepsTo_rxStep fun hr he => .rxWaitFall hr (by simp_all) (by simp_all)
  case rxByteDone =>
    simp only [exec, execRxByteDone]
    split
    · exact stepsTo_rxStep fun hr he => .rxDiscard hr (by simp_all) ‹_›
    · exact stepsTo_rxStep fun hr he => .rxKeep hr (by simp_all) ‹_› ((State.chanFull_eq_false (s := s) (c := .rxout)).mp (by simp_all))
  case rxOverrunWatch => exact stepsTo_rxStep fun hr he => absurd he (by simp)
  case rxReport => exact stepsTo_rxStep fun hr he => .rxReport hr (by simp_all) ((State.chanFull_eq_false (s := s) (c := .rxout)).mp (by simp_all))
  case rxEnd =>
    exact stepsTo_rxStep fun hr he => .rxEnd hr (by simp_all [or_assoc]) (by simp_all [State.chanEmpty, State.chan])

/-- The steps of TX. -/
theorem exec_tx (hi : i.agent = .tx) : StepsTo s i (exec i s) := by
  cases i <;> simp only [Instr.agent, reduceCtorEq] at hi
  case txAwaitCsHigh => exact stepsTo_txStep fun hr he => .txAwaitCsHigh hr (by simp_all) (by simp_all)
  case txAwaitCsLow => exact stepsTo_txStep fun hr he => .txAwaitCsLow hr (by simp_all) (by simp_all)
  case txLoad => exact stepsTo_txStep fun hr he => .txLoad hr (by simp_all) (by simp_all [State.chanEmpty, State.chan])
  case txWaitRise => exact stepsTo_txStep fun hr he => .txWaitRise hr (by simp_all) (by simp_all)
  case txWaitFall => exact stepsTo_txStep fun hr he => .txWaitFall hr (by simp_all) (by simp_all)

/-- The steps of the engines and the control primitives. -/
theorem exec_engines (hi : i.agent = .rde ∨ i.agent = .wre ∨ i.agent = .ctrl) : StepsTo s i (exec i s) := by
  cases i <;> simp only [Instr.agent, reduceCtorEq, or_self, or_true, true_or] at hi
  case rdeXfer =>
    simp only [exec, execRdeXfer]
    split
    · rename_i h
      simp only [State.rdeMayCopy, Bool.and_eq_true, State.liveAndSound_iff, decide_eq_true_eq] at h
      exact stepsTo_next (.rdeXfer h.1.1.1 h.1.1.2 h.1.2 (by simpa [State.chanEmpty, State.chan] using h.2))
    · exact stepsTo_hold
  case rdeConfig => exact stepsTo_primStep fun h _ => .rdeConfig h
  case rdeActivate => exact stepsTo_primStep fun h _ => .rdeActivate h
  case rdeDeactivate => exact stepsTo_primStep fun h _ => .rdeDeactivate h
  case wreXfer =>
    simp only [exec, execWreXfer]
    split
    · rename_i h
      simp only [State.wreMayFeed, Bool.and_eq_true, State.liveAndSound_iff, decide_eq_true_eq] at h
      obtain ⟨n, hn⟩ := s.wreTake_snd
      rw [hn]
      exact stepsTo_next
        (.wreXfer (n := n) h.1.1.1.1 h.1.1.1.2 h.1.1.2 h.1.2 ((State.chanFull_eq_false (c := .txin)).mp (by simpa using h.2)))
    · exact stepsTo_hold
  case wreConfig => exact stepsTo_primStep fun h _ => .wreConfig h
  case wreActivate => exact stepsTo_primStep fun h _ => .wreActivate h
  case wreDeactivate => exact stepsTo_primStep fun h _ => .wreDeactivate h
  case seqDeactivate => exact stepsTo_primStep fun h _ => .seqDeactivate h
  case seqRestart => exact stepsTo_primStep fun h _ => .seqRestart h
  case seqActivate => exact stepsTo_primStep fun h _ => .seqActivate h
  case chFlush => exact stepsTo_primStep fun h _ => .chFlush h
  case chPut => exact stepsTo_primStep fun h he => .chPut h (by simpa using he)
  case chGet => exact stepsTo_primStep fun h he => .chGet h (by simpa using he)
  case chEmpty => exact stepsTo_primStep fun h _ => .chEmpty h

/-- The steps of the edge detector and the handler. -/
theorem exec_eot (hi : i.agent = .eot) : StepsTo s i (exec i s) := by
  cases i <;> simp only [Instr.agent, reduceCtorEq] at hi
  case csdetEdge o n =>
    rcases hf : s.fault with _ | f
    · exact stepsTo_next (.csdetEdge hf)
    · exact .inl (by simp [exec, execCsdetEdge, State.csEdge, hf])
  case eotEntry =>
    refine stepsTo_eotStep fun h he => stepsTo_next (.eotEntry h ?_ ?_ ?_) <;> simp_all
  case eotStopEngines => exact stepsTo_eotStep fun h he => stepsTo_next (.eotStopEngines h (by simp_all))
  case eotPlaceholder => exact stepsTo_eotStep fun h he => stepsTo_next (.eotPlaceholder h (by simp_all) (by simp_all))
  case eotCheck =>
    refine stepsTo_eotStep fun h he => ?_
    split
    · exact stepsTo_next (.eotSpurious h (by simp_all) (by simp_all [State.chanEmpty, State.chan]))
    · exact stepsTo_next (.eotCheck h (by simp_all) (by simp_all [State.chanEmpty, State.chan]))
  case eotAccount =>
    refine stepsTo_eotStep fun h he => ?_
    split
    · exact stepsTo_raise h.2
    · exact stepsTo_next (.eotAccount h (by simp_all) (by simp_all [State.chanEmpty, State.chan]) ‹_›)
  case eotStopSeq => exact stepsTo_eotStep fun h he => stepsTo_next (.eotStopSeq h (by simp_all))
  case eotSignal => exact stepsTo_eotStep fun h he => stepsTo_next (.eotSignal h (by simp_all))
  case eotCallback =>
    refine stepsTo_eotStep fun h he => ?_
    split
    · split
      · exact stepsTo_raise h.2
      · exact stepsTo_next (.eotCallback h (by simp_all) ‹_› (by simp_all))
    · exact stepsTo_next (.eotLeave h (by simp_all) (by simp_all))

/-- The steps of the signal and the deferred callback. -/
theorem exec_sig (hi : i.agent = .sig) : StepsTo s i (exec i s) := by
  cases i <;> simp only [Instr.agent, reduceCtorEq] at hi
  case sigSet => exact stepsTo_primStep fun h _ => .sigSet h
  case sigClear => exact stepsTo_primStep fun h _ => .sigClear h
  case sigWait k =>
    simp only [exec, execSigWait]
    split
    · rename_i h
      have h := State.mayContinue_iff.mp h
      split
      · split
        · exact stepsTo_raise h.1
        · exact stepsTo_next (.sigWait ⟨h.1, h.2.1, h.2.2, ‹_›⟩ (by simp_all))
      · exact stepsTo_hold
    · exact stepsTo_hold
  case sigResume k =>
    simp only [exec, execSigResume]
    split
    · rename_i h
      simp only [Bool.and_eq_true, State.hostReady_iff, Option.isNone_iff_eq_none, beq_iff_eq] at h
      split
      · exact stepsTo_next (.sigResume h.1.1.1.1.1 h.1.1.1.1.2 h.1.1.1.2 h.1.1.2 h.1.2 h.2 ‹_›)
      · exact stepsTo_hold
    · exact stepsTo_hold
  case sigPoll k =>
    simp only [exec, execSigPoll]
    split
    · rename_i h
      simp only [Bool.and_eq_true, State.mayContinue_iff, beq_iff_eq] at h
      exact stepsTo_next (.sigPoll h.1.1.1 h.1.1.2.1 h.1.1.2.2 h.1.2 h.2)
    · exact stepsTo_hold
  case deferRun =>
    simp only [exec, execDeferRun]
    split
    · rename_i h
      simp only [Bool.and_eq_true, State.hostReady_iff, Option.isNone_iff_eq_none] at h
      split
      · exact stepsTo_next (.deferRun h.1.1 h.1.2 h.2 ‹_›)
      · exact stepsTo_hold
    · exact stepsTo_hold

/-- The steps of the master. -/
theorem exec_master (hi : i.agent = .master) : StepsTo s i (exec i s) := by
  cases i <;> simp only [Instr.agent, reduceCtorEq] at hi
  case wireCs => exact stepsTo_wireStep fun h => .wireCs h
  case wireSck => exact stepsTo_wireStep fun h => .wireSck h
  case wireMosi => exact stepsTo_wireStep fun h => .wireMosi h
  case wireSample =>
    refine stepsTo_wireStep fun h => ?_
    split
    · exact .wireSample (n := s.draws) h le_rfl
    · exact .wireSample h (Nat.le_succ _)

/-- The phases of ARM. -/
theorem armPhase_stepsTo {k : TaskId} {c : Command} {p : ArmPhase} (hf : s.fault = none)
    (h : ∀ t, ArmEffect k c s p t → Effect s i t) : StepsTo s i (armPhase k c p s) := by
  cases p
  case a1 =>
    simp only [armPhase, armA1]
    split
    · exact stepsTo_raise hf
    · rename_i ha
      simp only [armFault, State.lifeCheck] at ha
      have hl : s.life = .live := by
        rcases hl : s.life <;> simp_all
      simp only [hl] at ha
      split at ha
      · simp at ha
      · split at ha
        · simp at ha
        · rename_i hw hb
          have hw : s.sig.waiter = none := by simp_all
          split
          · exact stepsTo_next (h _ (.error hl hf hw))
          · exact stepsTo_next (h _ (.a1 hl hf hw (by omega) (by omega)))
  case a2 => exact stepsTo_next (h _ .a2)
  case a3 => exact stepsTo_next (h _ .a3)
  case a4 => exact stepsTo_next (h _ .a4)
  case a5 => exact stepsTo_next (h _ .a5)
  case a6 => exact stepsTo_next (h _ .a6)
  case a7 =>
    simp only [armPhase, armA7]
    split
    · exact stepsTo_hold
    · exact stepsTo_next (h _ (.a7 (by simp_all)))

/-- The host commands. -/
theorem exec_host (hi : i.agent = .host) : StepsTo s i (exec i s) := by
  cases i <;> simp only [Instr.agent, reduceCtorEq] at hi
  case construct k cap buf index pins cb irq =>
    simp only [exec, execConstruct]
    split
    · rename_i hm
      have hm := State.mayStart_iff.mp hm
      split
      · exact stepsTo_raise hm.1
      · exact stepsTo_raise hm.1
      · split
        · exact stepsTo_raise hm.1
        · exact stepsTo_next (.construct hm ‹_› rfl)
    · exact stepsTo_hold
  case arm k dst b mode =>
    simp only [exec, execArm]
    split
    · rename_i hm
      have hm := State.mayStart_iff.mp hm
      exact armPhase_stepsTo hm.1 fun t ht => .armStart hm ht
    · split
      · rename_i hm
        have hm := State.mayContinue_iff.mp hm
        split
        · exact armPhase_stepsTo hm.1 fun t ht => .armPhase ⟨hm.1, hm.2.1, hm.2.2, ‹_›⟩ ht
        · exact stepsTo_hold
      · exact stepsTo_hold
  case write k src len repeats =>
    refine stepsTo_startChecked fun hm hl => ?_
    split
    · exact stepsTo_raise hm.1
    · split
      · exact stepsTo_raise hm.1
      · obtain ⟨n, hn⟩ := State.hostReadMany_snd len src s
        rw [hn]
        exact stepsTo_next (.write hm hl (by simp_all) (by omega) rfl)
  case read k =>
    simp only [exec, execRead]
    split
    · rename_i hm
      have hm := State.mayContinue_iff.mp hm
      split
      · exact stepsTo_next (.readSpin ⟨hm.1, hm.2.1, hm.2.2, ‹_›⟩)
      · unfold returnView
        split
        · exact stepsTo_raise hm.1
        · exact stepsTo_next (.readReturn ⟨hm.1, hm.2.1, hm.2.2, ‹_›⟩ (by omega))
      · exact stepsTo_hold
    · refine stepsTo_startChecked fun hm hl => ?_
      split
      · exact stepsTo_next (.readError hm hl)
      · exact stepsTo_next (.read hm hl ‹_›)
  case readInto k dst len =>
    simp only [exec, execReadInto]
    split
    · rename_i hm
      have hm := State.mayContinue_iff.mp hm
      split
      · exact stepsTo_next (.readIntoReturn ⟨hm.1, hm.2.1, hm.2.2, ‹_›⟩)
      · exact stepsTo_hold
    · refine stepsTo_startChecked fun hm hl => ?_
      split
      · exact stepsTo_next (.readIntoError hm hl)
      · exact stepsTo_next (.readInto hm hl (by simp_all))
  case asReadInto k dst len =>
    simp only [exec, execAsReadInto]
    split
    · rename_i hm
      have hm := State.mayContinue_iff.mp hm
      split
      · exact stepsTo_next (.asReadIntoReturn ⟨hm.1, hm.2.1, hm.2.2, ‹_›⟩)
      · exact stepsTo_hold
    · exact stepsTo_startChecked fun hm hl => stepsTo_next (.asReadInto hm hl)
  case iterStep k =>
    simp only [exec, execIterStep]
    split
    · rename_i hm
      have hm := State.mayContinue_iff.mp hm
      split
      · unfold returnView
        split
        · exact stepsTo_raise hm.1
        · exact stepsTo_next (.iterReturn ⟨hm.1, hm.2.1, hm.2.2, ‹_›⟩ (by omega))
      · exact stepsTo_hold
    · refine stepsTo_startChecked fun hm hl => ?_
      split
      · exact stepsTo_next (.iterError hm hl)
      · exact stepsTo_next (.iterStep hm hl ‹_›)
  case deinit k =>
    simp only [exec, execDeinit]
    split
    · rename_i hm
      have hm := State.mayStart_iff.mp hm
      split
      · exact stepsTo_raise hm.1
      · exact stepsTo_next (.deinit hm ‹_›)
    · exact stepsTo_hold
  case outcomeRead k =>
    simp only [exec, execOutcomeRead]
    split
    · rename_i hm
      have hm := State.mayContinue_iff.mp hm
      split
      · split
        · exact stepsTo_raise hm.1
        · exact stepsTo_next (.outcomePhase ⟨hm.1, hm.2.1, hm.2.2, ‹_›⟩ ‹_›)
      · exact stepsTo_hold
    · refine stepsTo_startChecked fun hm hl => ?_
      split
      · exact stepsTo_raise hm.1
      · exact stepsTo_next (.outcomeRead hm hl ‹_›)
  case memRead k addr =>
    simp only [exec, execMemRead]
    split
    · rename_i hm
      have hm := State.mayStart_iff.mp hm
      obtain ⟨n, hn⟩ := State.hostRead_snd (s := s) addr
      rw [hn]
      exact stepsTo_next (.memRead hm (by rw [← hn]))
    · exact stepsTo_hold

/-- Every step of every agent holds, records a fault and nothing else, or has one of the effects above. -/
theorem exec_stepsTo (i : Instr) (s : State) : StepsTo s i (exec i s) := by
  rcases h : i.agent
  · exact exec_host h
  · exact exec_rx h
  · exact exec_tx h
  · exact exec_engines (.inl h)
  · exact exec_engines (.inr (.inl h))
  · exact exec_engines (.inr (.inr h))
  · exact exec_eot h
  · exact exec_sig h
  · exact exec_master h

/-- The same of a step that answered a next state. -/
theorem exec_effect (h : exec i s = .next t) :
    t = s ∨ (∃ f, s.fault = none ∧ t = { s with fault := some f }) ∨ Effect s i t := by
  rcases exec_stepsTo i s with he | ⟨f, hf, he⟩ | ⟨u, he, hu⟩ <;> rw [h] at he <;> injection he with he <;> subst he
  · exact .inl rfl
  · exact .inr (.inl ⟨f, hf, rfl⟩)
  · exact .inr (.inr hu)

/-- The same of a step that an agent takes: one that is only a part of another has no effect. -/
theorem takeStep_effect (h : takeStep i s = .next t) :
    t = s ∨ (∃ f, s.fault = none ∧ t = { s with fault := some f }) ∨ (i.isPart = false ∧ Effect s i t) := by
  unfold takeStep at h
  split at h
  · injection h with h; exact .inl h.symm
  · rcases exec_effect h with h | h | h
    · exact .inl h
    · exact .inr (.inl h)
    · exact .inr (.inr ⟨by simp_all, h⟩)

/-- A step that an agent takes always answers a next state. -/
theorem takeStep_next (i : Instr) (s : State) : ∃ t, takeStep i s = .next t := by
  unfold takeStep
  split
  · exact ⟨s, rfl⟩
  · rcases exec_stepsTo i s with h | ⟨f, _, h⟩ | ⟨t, h, _⟩ <;> exact ⟨_, h⟩

/-- A step that is no part is its `exec`. -/
theorem takeStep_of_not_part (h : i.isPart = false) : takeStep i s = exec i s := by simp [takeStep, h]

/-- A step that cannot be taken changes nothing. -/
theorem takeStep_of_canStep (h : canStep i s = false) : takeStep i s = .next s := by
  obtain ⟨t, ht⟩ := takeStep_next i s
  simp only [canStep, ht, decide_eq_false_iff_not, Decidable.not_not] at h
  rw [ht, h]

/-- The same of every step of a list that is held. -/
theorem takeStep_of_allHeld {is : List Instr} (h : allHeld is s = true) (hi : i ∈ is) : takeStep i s = .next s :=
  takeStep_of_canStep (by simpa [allHeld] using List.all_eq_true.mp h i hi)

/-- A property that taking an item, recording a fault and every effect of a step that agents take keep is one that every step of the
machine keeps. -/
theorem step_keeps {P : State → Prop} (htake : ∀ s l n, P s → P { s with sched := l, draws := n })
    (hfault : ∀ s f, P s → P { s with fault := some f })
    (heffect : ∀ s i t, i.isPart = false → P s → Effect s i t → P t) (hs : P s) (h : step s = .next t) : P t := by
  unfold step at h
  split at h
  · simp at h
  · obtain ⟨l, n, he⟩ := fetch_snd s
    rw [he] at h
    split at h
    · rcases takeStep_effect h with rfl | ⟨f, _, rfl⟩ | ⟨hp, h'⟩
      · exact htake _ _ _ hs
      · exact hfault _ _ (htake _ _ _ hs)
      · exact heffect _ _ _ hp (htake _ _ _ hs) h'
    · rw [raise_next h]
      exact hfault _ _ (htake _ _ _ hs)
    · simp at h

/-! What the phases of ARM leave -/

theorem armA4_frame {c : Command} : armA4 c s = { s with wre := (armA4 c s).wre, stg := (armA4 c s).stg } := by
  unfold armA4
  split
  · unfold State.configWre; split <;> rfl
  · rfl

theorem armA5_eq :
    armA5 s =
      { s with
        rde := { s.rde with active := true }
        wre := if s.wre.cfg && s.cfg.duplex then { s.wre with active := true } else s.wre } := by
  rcases h : s.wre.cfg <;> rcases h' : s.cfg.duplex <;> simp [armA5, State.activateRde, State.activateWre, h, h']

theorem armA6_eq :
    armA6 s = { s with rx := ⟨0, 0, 0, 0, true⟩, tx := if s.cfg.duplex then ⟨0, 0, 0, true⟩ else s.tx } := by
  rcases h : s.cfg.duplex <;> simp [armA6, State.activateSeq, State.restartSeq, h]

theorem armDone_frame {k : TaskId} {c : Command} :
    armDone k c s = { s with tasks := (armDone k c s).tasks, holder := (armDone k c s).holder } := by
  unfold armDone; split <;> rfl

/-- The edge detector leaves the latch as it was, or sets it on a live device. -/
theorem State.csEdge_irq_cases {old new : Level} :
    (s.csEdge old new).irq = s.irq ∨ ((s.csEdge old new).irq = { s.irq with pending := true } ∧ s.life = .live) := by
  unfold State.csEdge
  split
  · exact .inr ⟨rfl, by simp_all⟩
  · exact .inl rfl

end Sys2Proof.Machine
end

