-- ==== Sys2Proof/Laws/PerInstr.lean ====
section
/-! SUPPORT. What holds of every step as it is written, one lemma per constructor. -/

namespace Sys2Proof.Laws

/-- The code a step is written with carries its agent in the field of 30_encoding.md R81 and is none of the reserved codes of
R90. -/
def StepCode.Statement (i : Instr) : Prop :=
  (encode i).code.toNat / 16 = i.agent.field ∧ reservedCode (encode i).code = false

/-- The statement from the step's code and agent, each read off their definitions, and a fact about the code alone. -/
theorem StepCode.of_code {i : Instr} {c : Byte} {a : Agent} (hc : (encode i).code = c) (ha : i.agent = a)
    (h : c.toNat / 16 = a.field ∧ reservedCode c = false) : StepCode.Statement i := by
  rw [StepCode.Statement, hc, ha]; exact h

theorem StepCode.construct (t : TaskId) (cap : Option Nat) (buf : Addr) (index : Nat) (pins : PinIds) (cb : Option Nat) (irq : IrqMode) :
    StepCode.Statement (.construct t cap buf index pins cb irq) := StepCode.of_code (c := 0x01) (a := .host) rfl rfl (by decide)

theorem StepCode.arm (t : TaskId) (dst : Addr) (b : Word) (mode : ArmMode) :
    StepCode.Statement (.arm t dst b mode) := StepCode.of_code (c := 0x02) (a := .host) rfl rfl (by decide)

theorem StepCode.write (t : TaskId) (src : Addr) (len : Nat) (repeats : Int) :
    StepCode.Statement (.write t src len repeats) := StepCode.of_code (c := 0x03) (a := .host) rfl rfl (by decide)

theorem StepCode.read (t : TaskId) :
    StepCode.Statement (.read t) := StepCode.of_code (c := 0x04) (a := .host) rfl rfl (by decide)

theorem StepCode.readInto (t : TaskId) (dst : Addr) (len : Nat) :
    StepCode.Statement (.readInto t dst len) := StepCode.of_code (c := 0x05) (a := .host) rfl rfl (by decide)

theorem StepCode.asReadInto (t : TaskId) (dst : Addr) (len : Nat) :
    StepCode.Statement (.asReadInto t dst len) := StepCode.of_code (c := 0x06) (a := .host) rfl rfl (by decide)

theorem StepCode.iterStep (t : TaskId) :
    StepCode.Statement (.iterStep t) := StepCode.of_code (c := 0x07) (a := .host) rfl rfl (by decide)

theorem StepCode.deinit (t : TaskId) :
    StepCode.Statement (.deinit t) := StepCode.of_code (c := 0x08) (a := .host) rfl rfl (by decide)

theorem StepCode.outcomeRead (t : TaskId) :
    StepCode.Statement (.outcomeRead t) := StepCode.of_code (c := 0x09) (a := .host) rfl rfl (by decide)

theorem StepCode.memRead (t : TaskId) (addr : Addr) :
    StepCode.Statement (.memRead t addr) := StepCode.of_code (c := 0x0A) (a := .host) rfl rfl (by decide)

theorem StepCode.rxAwaitBudget :
    StepCode.Statement (.rxAwaitBudget) := StepCode.of_code (c := 0x10) (a := .rx) rfl rfl (by decide)

theorem StepCode.rxAwaitCsHigh :
    StepCode.Statement (.rxAwaitCsHigh) := StepCode.of_code (c := 0x11) (a := .rx) rfl rfl (by decide)

theorem StepCode.rxAwaitCsLow :
    StepCode.Statement (.rxAwaitCsLow) := StepCode.of_code (c := 0x12) (a := .rx) rfl rfl (by decide)

theorem StepCode.rxWaitRise :
    StepCode.Statement (.rxWaitRise) := StepCode.of_code (c := 0x13) (a := .rx) rfl rfl (by decide)

theorem StepCode.rxWaitFall :
    StepCode.Statement (.rxWaitFall) := StepCode.of_code (c := 0x14) (a := .rx) rfl rfl (by decide)

theorem StepCode.rxByteDone :
    StepCode.Statement (.rxByteDone) := StepCode.of_code (c := 0x15) (a := .rx) rfl rfl (by decide)

theorem StepCode.rxOverrunWatch :
    StepCode.Statement (.rxOverrunWatch) := StepCode.of_code (c := 0x16) (a := .rx) rfl rfl (by decide)

theorem StepCode.rxReport :
    StepCode.Statement (.rxReport) := StepCode.of_code (c := 0x17) (a := .rx) rfl rfl (by decide)

theorem StepCode.rxEnd :
    StepCode.Statement (.rxEnd) := StepCode.of_code (c := 0x18) (a := .rx) rfl rfl (by decide)

theorem StepCode.txAwaitCsHigh :
    StepCode.Statement (.txAwaitCsHigh) := StepCode.of_code (c := 0x20) (a := .tx) rfl rfl (by decide)

theorem StepCode.txAwaitCsLow :
    StepCode.Statement (.txAwaitCsLow) := StepCode.of_code (c := 0x21) (a := .tx) rfl rfl (by decide)

theorem StepCode.txLoad :
    StepCode.Statement (.txLoad) := StepCode.of_code (c := 0x22) (a := .tx) rfl rfl (by decide)

theorem StepCode.txWaitRise :
    StepCode.Statement (.txWaitRise) := StepCode.of_code (c := 0x23) (a := .tx) rfl rfl (by decide)

theorem StepCode.txWaitFall :
    StepCode.Statement (.txWaitFall) := StepCode.of_code (c := 0x24) (a := .tx) rfl rfl (by decide)

theorem StepCode.rdeXfer :
    StepCode.Statement (.rdeXfer) := StepCode.of_code (c := 0x30) (a := .rde) rfl rfl (by decide)

theorem StepCode.rdeConfig (dst : Addr) (count : Word) :
    StepCode.Statement (.rdeConfig dst count) := StepCode.of_code (c := 0x31) (a := .rde) rfl rfl (by decide)

theorem StepCode.rdeActivate :
    StepCode.Statement (.rdeActivate) := StepCode.of_code (c := 0x32) (a := .rde) rfl rfl (by decide)

theorem StepCode.rdeDeactivate :
    StepCode.Statement (.rdeDeactivate) := StepCode.of_code (c := 0x33) (a := .rde) rfl rfl (by decide)

theorem StepCode.wreXfer :
    StepCode.Statement (.wreXfer) := StepCode.of_code (c := 0x40) (a := .wre) rfl rfl (by decide)

theorem StepCode.wreConfig (data : List Byte) (count : Word) :
    StepCode.Statement (.wreConfig data count) := StepCode.of_code (c := 0x41) (a := .wre) rfl rfl (by decide)

theorem StepCode.wreActivate :
    StepCode.Statement (.wreActivate) := StepCode.of_code (c := 0x42) (a := .wre) rfl rfl (by decide)

theorem StepCode.wreDeactivate :
    StepCode.Statement (.wreDeactivate) := StepCode.of_code (c := 0x43) (a := .wre) rfl rfl (by decide)

theorem StepCode.seqDeactivate (q : Sequencer) :
    StepCode.Statement (.seqDeactivate q) := StepCode.of_code (c := 0x50) (a := .ctrl) rfl rfl (by decide)

theorem StepCode.seqRestart (q : Sequencer) :
    StepCode.Statement (.seqRestart q) := StepCode.of_code (c := 0x51) (a := .ctrl) rfl rfl (by decide)

theorem StepCode.seqActivate (q : Sequencer) :
    StepCode.Statement (.seqActivate q) := StepCode.of_code (c := 0x52) (a := .ctrl) rfl rfl (by decide)

theorem StepCode.chFlush (c : Channel) :
    StepCode.Statement (.chFlush c) := StepCode.of_code (c := 0x53) (a := .ctrl) rfl rfl (by decide)

theorem StepCode.chPut (c : Channel) (w : Word) :
    StepCode.Statement (.chPut c w) := StepCode.of_code (c := 0x54) (a := .ctrl) rfl rfl (by decide)

theorem StepCode.chGet (c : Channel) :
    StepCode.Statement (.chGet c) := StepCode.of_code (c := 0x55) (a := .ctrl) rfl rfl (by decide)

theorem StepCode.chEmpty (c : Channel) :
    StepCode.Statement (.chEmpty c) := StepCode.of_code (c := 0x56) (a := .ctrl) rfl rfl (by decide)

theorem StepCode.csdetEdge (old new : Level) :
    StepCode.Statement (.csdetEdge old new) := StepCode.of_code (c := 0x60) (a := .eot) rfl rfl (by decide)

theorem StepCode.eotEntry :
    StepCode.Statement (.eotEntry) := StepCode.of_code (c := 0x61) (a := .eot) rfl rfl (by decide)

theorem StepCode.eotStopEngines :
    StepCode.Statement (.eotStopEngines) := StepCode.of_code (c := 0x62) (a := .eot) rfl rfl (by decide)

theorem StepCode.eotPlaceholder :
    StepCode.Statement (.eotPlaceholder) := StepCode.of_code (c := 0x63) (a := .eot) rfl rfl (by decide)

theorem StepCode.eotCheck :
    StepCode.Statement (.eotCheck) := StepCode.of_code (c := 0x64) (a := .eot) rfl rfl (by decide)

theorem StepCode.eotAccount :
    StepCode.Statement (.eotAccount) := StepCode.of_code (c := 0x65) (a := .eot) rfl rfl (by decide)

theorem StepCode.eotStopSeq :
    StepCode.Statement (.eotStopSeq) := StepCode.of_code (c := 0x66) (a := .eot) rfl rfl (by decide)

theorem StepCode.eotSignal :
    StepCode.Statement (.eotSignal) := StepCode.of_code (c := 0x67) (a := .eot) rfl rfl (by decide)

theorem StepCode.eotCallback :
    StepCode.Statement (.eotCallback) := StepCode.of_code (c := 0x68) (a := .eot) rfl rfl (by decide)

theorem StepCode.sigSet :
    StepCode.Statement (.sigSet) := StepCode.of_code (c := 0x70) (a := .sig) rfl rfl (by decide)

theorem StepCode.sigClear :
    StepCode.Statement (.sigClear) := StepCode.of_code (c := 0x71) (a := .sig) rfl rfl (by decide)

theorem StepCode.sigWait (t : TaskId) :
    StepCode.Statement (.sigWait t) := StepCode.of_code (c := 0x72) (a := .sig) rfl rfl (by decide)

theorem StepCode.sigResume (t : TaskId) :
    StepCode.Statement (.sigResume t) := StepCode.of_code (c := 0x73) (a := .sig) rfl rfl (by decide)

theorem StepCode.sigPoll (t : TaskId) :
    StepCode.Statement (.sigPoll t) := StepCode.of_code (c := 0x74) (a := .sig) rfl rfl (by decide)

theorem StepCode.deferRun :
    StepCode.Statement (.deferRun) := StepCode.of_code (c := 0x75) (a := .sig) rfl rfl (by decide)

theorem StepCode.wireCs (v : Level) :
    StepCode.Statement (.wireCs v) := StepCode.of_code (c := 0x80) (a := .master) rfl rfl (by decide)

theorem StepCode.wireSck (v : Level) :
    StepCode.Statement (.wireSck v) := StepCode.of_code (c := 0x81) (a := .master) rfl rfl (by decide)

theorem StepCode.wireMosi (v : Level) :
    StepCode.Statement (.wireMosi v) := StepCode.of_code (c := 0x82) (a := .master) rfl rfl (by decide)

theorem StepCode.wireSample :
    StepCode.Statement (.wireSample) := StepCode.of_code (c := 0x83) (a := .master) rfl rfl (by decide)

end Sys2Proof.Laws
end

