-- ==== Sys2Proof/Tests/Slice0.lean ====
section
/-! SUPPORT. The model's own tests. Their expected values come from the codes of 30_encoding.md and from the vectors of
95_test_vectors.md, named V-..., or are worked out by hand from the rule named. A theorem `test_witness_<Name>` shows, for each clause
of the statement `Obligations.<Name>`, a state and operands that meet the clause's hypotheses together, and what the step gives
there. -/

namespace Sys2Proof.Tests

open Sys2Proof Sys2Proof.Machine

/-! Helpers -/

/-- The outcome is a next state that has the property. -/
def ends (o : Out) (p : State → Bool) : Bool :=
  match o with
  | .next t => p t
  | .fault _ => false
  | .refused _ => false

/-- The outcome is this next state. -/
def gives (o : Out) (t : State) : Bool := ends o fun u => decide (u = t)

/-- A live device with a data-out pin, a buffer of 4 bytes and a callback, under the launch parameters W = 16, FIFO_DEPTH = 4. -/
def live : State := State.reset.built (cfgOf (some 4) 0x20000000 0 ⟨2, 3, 4, some 5⟩ (some 7) .soft)

/-- A live device without a data-out pin, a buffer or a callback. -/
def bareDevice : State := State.reset.built (cfgOf none 0 0 ⟨2, 3, 4, none⟩ none .soft)

/-- RX at this state, with this shift register, bit counter and budget, active. -/
def rxAt (st : Nibble) (shift : Byte) (bits : Nibble) (r : Word) : State := { live with rx := ⟨st, shift, bits, r, true⟩ }

/-- TX at this state, active. -/
def txAt (st : Nibble) (shift : Byte) (bits : Nibble) : State := { live with tx := ⟨st, shift, bits, true⟩ }

/-- The handler at this phase, for a transfer of budget `b` with a callback. -/
def eotAt (n : Nibble) (b : Word) : State := { live with eotPhase := n, xfer := ⟨some b, 0x20000000, true⟩ }

/-- Task 1 holds the scheduler with this command at this phase. -/
def taskAt (c : Command) (p : Phase) : State := { live with tasks := [(1, .busy c p)], holder := some 1 }

/-- The state with these pin levels. -/
def pins (s : State) (cs sck mosi : Level) : State := { s with pins := ⟨cs, sck, mosi, s.pins.miso⟩ }

/-- The state with these channels. -/
def chans (s : State) (rxin rxout txin : List Word) : State := { s with ch := ⟨rxin, rxout, txin⟩ }

/-- Four words: a full channel at FIFO_DEPTH = 4. -/
def full : List Word := [1, 2, 3, 4]

/-! Well-formedness -/

/-- An ill-formed item for each type of operand of R97, a missing and a surplus operand: the check refuses each. -/
theorem test_wf_refuses :
    [(⟨0, 0x0A, [.int 0]⟩ : Item), ⟨0, 0x05, [.nat 0, .int 2]⟩, ⟨0, 0x54, [.chan .rxin, .nat 4294967296]⟩, ⟨0, 0x80, [.nat 2]⟩,
      ⟨0, 0x02, [.nat 0, .nat 4, .nat 3]⟩, ⟨0, 0x03, [.nat 0, .nat 2, .nat 1]⟩, ⟨0, 0x50, [.chan .rxin]⟩, ⟨0, 0x55, [.seqr .rx]⟩,
      ⟨0, 0x41, [.nat 1, .nat 1]⟩,
      ⟨0, 0x01, [.int 4, .nat 0, .nat 0, .pins ⟨2, 3, 4, none⟩, .absent, .irq .soft]⟩,
      ⟨0, 0x01, [.nat 4, .nat 0, .nat 0, .absent, .absent, .irq .soft]⟩,
      ⟨0, 0x01, [.nat 4, .nat 0, .nat 0, .pins ⟨2, 3, 4, none⟩, .absent, .nat 0]⟩,
      ⟨0, 0x02, [.nat 0, .nat 4]⟩, ⟨0, 0x15, [.nat 0]⟩].all (fun it => !it.wf) = true := by decide

/-- WRE.CONFIG takes its count as given (R156): the count is no condition on the data. -/
theorem test_wf_accepts :
    Item.wf ⟨0, 0x41, [.bytes [], .nat 1]⟩ = true ∧ decode ⟨0, 0x41, [.bytes [], .nat 1]⟩ = .ok (.wreConfig [] 1) ∧
      Item.wf ⟨0, 0x03, [.nat 0, .nat 2]⟩ = true := by decide

/-- Operands of another type or number than R97 gives are no step. -/
theorem test_decode_refuses_operands :
    decode ⟨0, 0x02, [.nat 0, .nat 4294967296, .nat 0]⟩ = .error (.badOperands 0x02) ∧
      decode ⟨0, 0x02, [.nat 0, .nat 4, .nat 3]⟩ = .error (.badOperands 0x02) ∧
      decode ⟨0, 0x80, [.nat 2]⟩ = .error (.badOperands 0x80) ∧
      decode ⟨0, 0x15, [.nat 0]⟩ = .error (.badOperands 0x15) := by decide

/-! Decoding: every code of R82 to R89, written out from the tables -/

theorem test_decode_host :
    decode ⟨1, 0x01, [.nat 4, .nat 0x20000000, .nat 0, .pins ⟨2, 3, 4, none⟩, .absent, .irq .soft]⟩ =
        .ok (.construct 1 (some 4) 0x20000000 0 ⟨2, 3, 4, none⟩ none .soft) ∧
      decode ⟨1, 0x02, [.nat 0x20000000, .nat 4, .nat 2]⟩ = .ok (.arm 1 0x20000000 4 .await) ∧
      decode ⟨1, 0x03, [.nat 0x20002000, .nat 3, .int (-1)]⟩ = .ok (.write 1 0x20002000 3 (-1)) ∧
      decode ⟨1, 0x03, [.nat 0x20002000, .nat 3]⟩ = .ok (.write 1 0x20002000 3 1) ∧
      decode ⟨2, 0x04, []⟩ = .ok (.read 2) ∧
      decode ⟨2, 0x05, [.nat 0x20001000, .nat 2]⟩ = .ok (.readInto 2 0x20001000 2) ∧
      decode ⟨2, 0x06, [.nat 0x100000003, .nat 8]⟩ = .ok (.asReadInto 2 3 8) ∧
      decode ⟨2, 0x07, []⟩ = .ok (.iterStep 2) ∧ decode ⟨2, 0x08, []⟩ = .ok (.deinit 2) ∧
      decode ⟨2, 0x09, []⟩ = .ok (.outcomeRead 2) ∧ decode ⟨2, 0x0A, [.nat 0x20000001]⟩ = .ok (.memRead 2 0x20000001) := by
  decide

theorem test_decode_rx :
    decode ⟨0, 0x10, []⟩ = .ok .rxAwaitBudget ∧ decode ⟨0, 0x11, []⟩ = .ok .rxAwaitCsHigh ∧
      decode ⟨0, 0x12, []⟩ = .ok .rxAwaitCsLow ∧ decode ⟨0, 0x13, []⟩ = .ok .rxWaitRise ∧
      decode ⟨0, 0x14, []⟩ = .ok .rxWaitFall ∧ decode ⟨0, 0x15, []⟩ = .ok .rxByteDone ∧
      decode ⟨0, 0x16, []⟩ = .ok .rxOverrunWatch ∧ decode ⟨0, 0x17, []⟩ = .ok .rxReport ∧
      decode ⟨0, 0x18, []⟩ = .ok .rxEnd := by decide

theorem test_decode_tx :
    decode ⟨0, 0x20, []⟩ = .ok .txAwaitCsHigh ∧ decode ⟨0, 0x21, []⟩ = .ok .txAwaitCsLow ∧
      decode ⟨0, 0x22, []⟩ = .ok .txLoad ∧ decode ⟨0, 0x23, []⟩ = .ok .txWaitRise ∧
      decode ⟨0, 0x24, []⟩ = .ok .txWaitFall := by decide

theorem test_decode_engines :
    decode ⟨0, 0x30, []⟩ = .ok .rdeXfer ∧ decode ⟨0, 0x31, [.nat 0x20001000, .nat 2]⟩ = .ok (.rdeConfig 0x20001000 2) ∧
      decode ⟨0, 0x32, []⟩ = .ok .rdeActivate ∧ decode ⟨0, 0x33, []⟩ = .ok .rdeDeactivate ∧
      decode ⟨0, 0x40, []⟩ = .ok .wreXfer ∧
      decode ⟨0, 0x41, [.bytes [0x61, 0x62], .nat 2]⟩ = .ok (.wreConfig [0x61, 0x62] 2) ∧
      decode ⟨0, 0x42, []⟩ = .ok .wreActivate ∧ decode ⟨0, 0x43, []⟩ = .ok .wreDeactivate := by decide

theorem test_decode_ctrl :
    decode ⟨0, 0x50, [.seqr .tx]⟩ = .ok (.seqDeactivate .tx) ∧ decode ⟨0, 0x51, [.seqr .rx]⟩ = .ok (.seqRestart .rx) ∧
      decode ⟨0, 0x52, [.seqr .tx]⟩ = .ok (.seqActivate .tx) ∧ decode ⟨0, 0x53, [.chan .txin]⟩ = .ok (.chFlush .txin) ∧
      decode ⟨0, 0x54, [.chan .rxin, .nat 0xFFFFFFFF]⟩ = .ok (.chPut .rxin 0xFFFFFFFF) ∧
      decode ⟨0, 0x55, [.chan .rxout]⟩ = .ok (.chGet .rxout) ∧ decode ⟨0, 0x56, [.chan .rxout]⟩ = .ok (.chEmpty .rxout) := by
  decide

theorem test_decode_eot :
    decode ⟨0, 0x60, [.nat 0, .nat 1]⟩ = .ok (.csdetEdge 0 1) ∧ decode ⟨0, 0x61, []⟩ = .ok .eotEntry ∧
      decode ⟨0, 0x62, []⟩ = .ok .eotStopEngines ∧ decode ⟨0, 0x63, []⟩ = .ok .eotPlaceholder ∧
      decode ⟨0, 0x64, []⟩ = .ok .eotCheck ∧ decode ⟨0, 0x65, []⟩ = .ok .eotAccount ∧
      decode ⟨0, 0x66, []⟩ = .ok .eotStopSeq ∧ decode ⟨0, 0x67, []⟩ = .ok .eotSignal ∧
      decode ⟨0, 0x68, []⟩ = .ok .eotCallback := by decide

theorem test_decode_sig :
    decode ⟨0, 0x70, []⟩ = .ok .sigSet ∧ decode ⟨0, 0x71, []⟩ = .ok .sigClear ∧ decode ⟨3, 0x72, []⟩ = .ok (.sigWait 3) ∧
      decode ⟨3, 0x73, []⟩ = .ok (.sigResume 3) ∧ decode ⟨3, 0x74, []⟩ = .ok (.sigPoll 3) ∧
      decode ⟨0, 0x75, []⟩ = .ok .deferRun := by decide

theorem test_decode_master :
    decode ⟨0, 0x80, [.nat 0]⟩ = .ok (.wireCs 0) ∧ decode ⟨0, 0x81, [.nat 1]⟩ = .ok (.wireSck 1) ∧
      decode ⟨0, 0x82, [.nat 1]⟩ = .ok (.wireMosi 1) ∧ decode ⟨0, 0x83, []⟩ = .ok .wireSample := by decide

/-- The host's numbering of a code: the byte itself, with zero operands. -/
theorem test_decodeTableWord :
    decodeTableWord 8 0x15 = some .rxByteDone ∧ decodeTableWord 8 0x02 = some (.arm 0 0 0 .blocking) ∧
      decodeTableWord 8 0x9F = none ∧
      gives (step (State.reset.withFetchWord 8 0x81)) State.reset = true := by decide

/-- R150, R180, R240: a part of another step is never taken alone. -/
theorem test_parts_hold :
    gives (step { live with sched := [⟨0, 0x60, [.nat 0, .nat 1]⟩] }) live = true ∧
      gives (step { live with sched := [⟨0, 0x31, [.nat 9, .nat 2]⟩] }) live = true ∧
      gives (step { live with sched := [⟨0, 0x70, []⟩] }) live = true := by decide

/-- V-SIG10 with R353: a device torn down with its flag set and a task parked is stuck, not final; one with no task left is final,
but not while the master has a step left, nor while an idle task has a command left. -/
theorem test_final_and_stuck :
    State.stuck { live with life := .dead, irq := ⟨false, false⟩, sig := ⟨true, some 1⟩, tasks := [(1, .suspended .iterStep)] } =
        true ∧
      live.final = true ∧ { live with sched := [⟨0, 0x81, [.nat 1]⟩] }.quiet = false ∧
      { live with sched := [⟨1, 0x0A, [.nat 0]⟩] }.quiet = false ∧
      { live with sched := [⟨1, 0x74, []⟩, ⟨1, 0x0A, [.nat 0]⟩] }.final = false ∧
      { live with sched := [⟨1, 0x74, []⟩] }.final = true ∧ { live with sched := [⟨1, 0x08, []⟩] }.quiet = false ∧
      { live with sched := [⟨0, 0x15, []⟩] }.final = true := by decide

/-- R343: the master waits while an idle task has a command it may start, and goes on where the command waits in another task. -/
theorem test_prio_waits_for_commands :
    prio (.wireCs 0) [.wireSck 1, .memRead 1 0] live = false ∧
      prio (.wireCs 0) [.sigPoll 1, .sigWait 1, .memRead 1 0] live = false ∧ prio (.wireCs 0) [.sigPoll 1] live = true ∧
      prioRun [.wireCs 0, .sigResume 1, .asReadInto 1 0x20003000 4] live = false ∧
      prio (.wireCs 0) [.wireSck 1] live = true ∧
      prio (.wireCs 0) [.memRead 2 0] { live with holder := some 1, tasks := [(1, .spin)] } = true := by decide

/-! The witnesses of the statements, clause by clause -/

/-- Every shape of operand, at boundary values. -/
theorem test_witness_DecodeOfEncode :
    (encode (.wreConfig [0xFF, 0x00] 3)).wf = true ∧ decode (encode (.wreConfig [0xFF, 0x00] 3)) = .ok (.wreConfig [0xFF, 0x00] 3) ∧
      (encode (.arm 9 0xFFFFFFFF 0xFFFFFFFF .callback)).wf = true ∧
      decode (encode (.arm 9 0xFFFFFFFF 0xFFFFFFFF .callback)) = .ok (.arm 9 0xFFFFFFFF 0xFFFFFFFF .callback) := by decide

theorem test_witness_DecodedStepHasItsCode :
    decode ⟨4, 0x0A, [.nat 7]⟩ = .ok (.memRead 4 7) ∧ (encode (.memRead 4 7)).code = 0x0A ∧
      reservedCode 0x0A = false ∧ Item.wf ⟨4, 0x0A, [.nat 7]⟩ = true ∧
      Item.wf ⟨4, 0x0A, []⟩ = false ∧ decode ⟨4, 0x0A, []⟩ = .error (.badOperands 0x0A) ∧
      reservedCode 0x0B = true ∧ decode ⟨4, 0x0B, []⟩ = .error (.reservedStep 0x0B) := by decide

/-- V-DEC3, V-H18: reserved codes, and the codes beside each reserved range. -/
theorem test_witness_ReservedCodesNameNoStep :
    { live with sched := [⟨1, 0x0B, []⟩] }.fault = none ∧
      decode ⟨1, 0x0B, []⟩ = .error (.reservedStep 0x0B) ∧
      gives (step { live with sched := [⟨1, 0x0B, []⟩] }) { live with fault := some .reservedStep } = true ∧
      ([0x00, 0x0B, 0x0F, 0x19, 0x1F, 0x25, 0x2F, 0x34, 0x3F, 0x44, 0x4F, 0x57, 0x5F, 0x69, 0x6F, 0x76, 0x7F, 0x84, 0x8F,
          0x90, 0xFF].all reservedCode) = true ∧
      ([0x01, 0x0A, 0x10, 0x18, 0x20, 0x24, 0x30, 0x33, 0x40, 0x43, 0x50, 0x56, 0x60, 0x68, 0x70, 0x75, 0x80, 0x83].any
          reservedCode) = false := by decide

theorem test_witness_StepTakesScheduledItem :
    { live with sched := [⟨0, 0x81, [.nat 1]⟩] }.fault = none ∧ decode ⟨0, 0x81, [.nat 1]⟩ = .ok (.wireSck 1) ∧
      (Instr.wireSck 1).isPart = false ∧
      gives (step { live with sched := [⟨0, 0x81, [.nat 1]⟩] }) (pins live 1 1 0) = true ∧
      decode ⟨0, 0x71, []⟩ = .ok .sigClear ∧ Instr.sigClear.isPart = true ∧
      gives (step { live with sched := [⟨0, 0x71, []⟩], sig := ⟨true, none⟩ }) { live with sig := ⟨true, none⟩ } = true ∧
      live.fault = none ∧ live.sched = [] ∧
      decode ⟨0, 0x81, [.nat 2]⟩ = .error (.badOperands 0x81) ∧
      { live with fault := some .noDataOut }.fault = some .noDataOut := by decide

/-- V-F0: after a fault nothing is enabled, a master's step included. -/
theorem test_witness_FaultStopsEveryAgent :
    { live with fault := some .noDataOut }.fault ≠ none ∧
      gives (exec (.wireSck 1) { live with fault := some .noDataOut }) { live with fault := some .noDataOut } = true := by decide

theorem test_witness_FaultIsTheOnlyEffect :
    (bareDevice.fault = none ∧
      gives (exec (.write 1 0 2 1) bareDevice) { bareDevice with fault := some .noDataOut } = true ∧
      gives (exec .sigSet { live with fault := some .noDataOut }) { live with fault := some .noDataOut } = true ∧
      { live with fault := some .noDataOut }.final = false ∧ { live with fault := some .noDataOut }.stuck = false ∧
      live.final = true ∧ live.stuck = false ∧ live.quiet = true ∧ Tab.wf .idle live.tasks = true) ∧
      HostInv live ∧
      { live with sig := ⟨false, some 1⟩, tasks := [(1, .suspended .iterStep)] }.quiet = true ∧
      { live with sig := ⟨false, some 1⟩, tasks := [(1, .suspended .iterStep)] }.stuck = true ∧
      { live with sched := [⟨0, 0x15, []⟩, ⟨1, 0x74, []⟩] }.quiet = true ∧
      some (.sigPoll 1) ∈ { live with sched := [⟨0, 0x15, []⟩, ⟨1, 0x74, []⟩] }.script := by
  refine ⟨by decide, ?_, by decide, by decide, by decide, by decide⟩
  constructor <;> intros <;> simp_all [State.task, live, State.built, State.reset, Signal.built, Tab.get]

/-- V-RX1, V-RX2. -/
theorem test_witness_RxAwaitBudgetLoads :
    (chans (rxAt 0 0 0 0) [4] [] []).RxOn ∧ (chans (rxAt 0 0 0 0) [4] [] []).rx.state = 0 ∧
      gives (exec .rxAwaitBudget (chans (rxAt 0 0 0 0) [4] [] [])) (rxAt 1 0 0 4) = true ∧
      (rxAt 0 0 0 0).RxOn ∧ (rxAt 0 0 0 0).rx.state.toNat < 8 ∧ (rxAt 0 0 0 0).ch.rxin = [] ∧
      (chans (rxAt 7 0 0 0) [4] [] []).rx.state ≠ 0 ∧ (rxAt 7 0 0 0).rx.state.toNat < 8 := by decide

/-- V-RX3, V-RX4, V-RX5. -/
theorem test_witness_RxChipSelectWaits :
    (chans (rxAt 1 0 0 4) [0] [] []).RxOn ∧ (rxAt 1 0 0 4).pins.cs = 1 ∧
      gives (exec .rxAwaitCsHigh (chans (rxAt 1 0 0 4) [0] [] [])) (chans (rxAt 2 0 0 4) [0] [] []) = true ∧
      (pins (rxAt 1 0 0 4) 0 0 0).RxOn ∧ (pins (rxAt 1 0 0 4) 0 0 0).pins.cs = 0 ∧
      gives (exec .rxAwaitCsHigh (pins (rxAt 1 0 0 4) 0 0 0)) (pins (rxAt 1 0 0 4) 0 0 0) = true ∧
      (pins (rxAt 2 7 0 4) 0 0 0).rx.state = 2 ∧
      gives (exec .rxAwaitCsLow (pins (rxAt 2 7 0 4) 0 0 0)) (pins (rxAt 3 0 8 4) 0 0 0) = true ∧
      (rxAt 2 0 0 4).RxOn ∧ (rxAt 2 0 0 4).pins.cs = 1 ∧ (rxAt 2 0 0 4).rx.state.toNat < 8 := by decide

/-- V-RX6 to V-RX10. -/
theorem test_witness_RxShiftsOneBit :
    (pins (rxAt 3 0x52 2 4) 0 1 1).RxOn ∧
      gives (exec .rxWaitRise (pins (rxAt 3 0x52 2 4) 0 1 1)) (pins (rxAt 4 0xA5 1 4) 0 1 1) = true ∧
      gives (exec .rxWaitRise (pins (rxAt 3 0x80 1 4) 0 1 0)) (pins (rxAt 4 0x00 0 4) 0 1 0) = true ∧
      (pins (rxAt 3 0 8 4) 0 0 0).RxOn ∧ (pins (rxAt 3 0 8 4) 0 0 0).pins.sck = 0 ∧
      (pins (rxAt 4 0 0 4) 0 0 0).RxOn ∧ gives (exec .rxWaitFall (pins (rxAt 4 0 0 4) 0 0 0)) (pins (rxAt 5 0 0 4) 0 0 0) = true ∧
      (pins (rxAt 4 0 3 4) 0 0 0).rx.bits ≠ 0 ∧
      gives (exec .rxWaitFall (pins (rxAt 4 0 3 4) 0 0 0)) (pins (rxAt 3 0 3 4) 0 0 0) = true ∧
      (pins (rxAt 4 0 3 4) 0 1 0).RxOn ∧ (pins (rxAt 4 0 3 4) 0 1 0).pins.sck = 1 := by decide

/-- V-RX11 to V-RX14. -/
theorem test_witness_RxByteDoneTestsThenDecrements :
    (rxAt 5 0x3C 0 1).RxOn ∧ (rxAt 5 0x3C 0 1).rx.r ≠ 0 ∧ (rxAt 5 0x3C 0 1).ch.rxout.length < live.params.depth ∧
      gives (exec .rxByteDone (rxAt 5 0x3C 0 1)) (chans (rxAt 3 0 8 0) [] [0x0000003C] []) = true ∧
      gives (exec .rxByteDone (rxAt 5 0x77 0 0)) (rxAt 6 0 0 0xFFFFFFFF) = true ∧
      (chans (rxAt 5 0x77 0 3) [] full []).RxOn ∧ live.params.depth ≤ full.length ∧
      gives (exec .rxByteDone (chans (rxAt 5 0x77 0 3) [] full [])) (chans (rxAt 5 0x77 0 3) [] full []) = true ∧
      gives (exec .rxByteDone (chans (rxAt 5 0x77 0 0) [] full [])) (chans (rxAt 6 0 0 0xFFFFFFFF) [] full []) = true ∧
      (rxAt 4 0 0 1).RxOn ∧ (rxAt 4 0 0 1).rx.state.toNat < 8 ∧ (rxAt 4 0 0 1).rx.state ≠ 5 := by decide

/-- V-RX15 to V-RX17, V-RX19. -/
theorem test_witness_RxEndsAtTransferEnded :
    (rxAt 6 0 0 0xFFFFFFFF).RxOn ∧ gives (exec .rxOverrunWatch (rxAt 6 0 0 0xFFFFFFFF)) (rxAt 6 0 0 0xFFFFFFFF) = true ∧
      Instr.agent .rxWaitRise = .rx ∧ Instr.rxWaitRise ≠ .rxEnd ∧
      gives (exec .rxEnd (chans (rxAt 6 0 0 0xFFFFFFFF) [0] [] [])) (rxAt 7 0 0 0xFFFFFFFF) = true ∧
      gives (exec .rxEnd (chans (rxAt 3 0x05 5 2) [0] [] [])) (rxAt 7 0 0 2) = true ∧
      gives (exec .rxEnd (chans (rxAt 4 0x05 5 2) [7] [] [])) (rxAt 7 0 0 2) = true ∧
      (rxAt 3 0 8 2).RxOn ∧ (rxAt 3 0 8 2).ch.rxin = [] ∧
      (chans (rxAt 2 0 0 2) [0] [] []).RxOn ∧ (rxAt 2 0 0 2).rx.state.toNat < 8 := by decide

/-- V-RX20 to V-RX23. -/
theorem test_witness_RxReportsRemainingBudget :
    (rxAt 7 0 0 2).RxOn ∧ 2 ≤ live.params.w ∧ live.params.w ≤ 32 ∧
      gives (exec .rxReport (rxAt 7 0 0 2)) (chans (rxAt 0 0 0 2) [] [0x00000002] []) = true ∧
      gives (exec .rxReport (rxAt 7 0 0 0xFFFFFFFF)) (chans (rxAt 0 0 0 0xFFFFFFFF) [] [0x0000FFFF] []) = true ∧
      gives (exec .rxReport { rxAt 7 0 0 0xFFFFFFFF with params := ⟨8, 4⟩ })
        { chans (rxAt 0 0 0 0xFFFFFFFF) [] [0x000000FF] [] with params := ⟨8, 4⟩ } = true ∧
      (chans (rxAt 7 0 0 2) [] full []).RxOn ∧ live.params.depth ≤ full.length ∧
      reportWord 32 0xFFFFFFFF = 0xFFFFFFFF ∧ reportWord 2 2 = 2 ∧ (2 : Word).toNat ≤ 2 ^ 2 - 2 := by decide

/-- V-RX25: RX inactive; and an active one. -/
theorem test_witness_RxTouchesOnlyItsOwn :
    Instr.agent .rxAwaitBudget = .rx ∧ ¬(chans live [4] [] []).RxOn ∧
      gives (exec .rxAwaitBudget (chans live [4] [] [])) (chans live [4] [] []) = true ∧
      ends (exec .rxReport (rxAt 7 0 0 2)) (fun t => t.ch.rxout == [2]) = true ∧
      ends (exec .rxReport { rxAt 7 0 0 2 with log := [.spurious] }) (fun t => t.ch.rxout == [2]) = true := by decide

theorem test_witness_RxMovesAlongStateGraph :
    ends (exec .rxReport (rxAt 7 0 0 2)) (fun t => t.rx.state != (rxAt 7 0 0 2).rx.state) = true ∧
      ends (exec (.seqRestart .rx) (rxAt 6 0 0 0xFFFFFFFF)) (fun t => t.rx.state == 0) = true := by decide

/-- V-RX24, V-TX14, V-EOT20, at the first and the last reserved code. -/
theorem test_witness_ReservedStateCodesFault :
    (rxAt 8 0 0 0).RxOn ∧ 8 ≤ (rxAt 8 0 0 0).rx.state.toNat ∧
      gives (exec .rxWaitFall (rxAt 15 0 0 0)) { rxAt 15 0 0 0 with fault := some .reservedState } = true ∧
      (txAt 5 0 0).TxOn ∧ 5 ≤ (txAt 5 0 0).tx.state.toNat ∧
      gives (exec .txLoad (txAt 5 0 0)) { txAt 5 0 0 with fault := some .reservedState } = true ∧
      Instr.eotSignal ∈ handlerSteps ∧ (eotAt 8 4).Sound ∧ 8 ≤ (eotAt 8 4).eotPhase.toNat ∧
      gives (exec .eotSignal (eotAt 8 4)) { eotAt 8 4 with fault := some .reservedState } = true ∧
      { chans live [] [7] [] with eotPhase := 4 }.Sound ∧ live.xfer.b = none ∧
      ends (exec .eotAccount { chans live [] [7] [] with eotPhase := 4 }) (fun t => t.fault == some .reservedState) = true := by
  decide

/-- V-RX26 and V-TX15, from their starts to their ends. -/
theorem test_witness_ByteCrossesTheWire :
    (rxAt 3 0 8 4).RxOn ∧ (rxAt 3 0 8 4).rx.bits = 8 ∧
      ends (runSteps ((wireBits 0xA5).flatMap bitSteps) (rxAt 3 0 8 4)) (fun t => t.rx == ⟨5, 0xA5, 0, 4, true⟩) = true ∧
      (txAt 3 0x61 8).TxOn ∧ (txAt 3 0x61 8).tx.bits = 8 ∧
      ends (runSteps ((List.replicate 8 [Instr.wireSck 1, .txWaitRise, .wireSck 0, .txWaitFall]).flatten) (txAt 3 0x61 8))
        (fun t => t.tx == ⟨2, 0, 0, true⟩ &&
          t.log == [.emit 0, .emit 1, .emit 1, .emit 0, .emit 0, .emit 0, .emit 0, .emit 1]) = true := by decide

/-- V-TX1 to V-TX6. -/
theorem test_witness_TxWaitsAndLoads :
    (txAt 0 0 0).TxOn ∧ (txAt 0 0 0).pins.cs = 1 ∧ gives (exec .txAwaitCsHigh (txAt 0 0 0)) (txAt 1 0 0) = true ∧
      (pins (txAt 0 0 0) 0 0 0).TxOn ∧ gives (exec .txAwaitCsHigh (pins (txAt 0 0 0) 0 0 0)) (pins (txAt 0 0 0) 0 0 0) = true ∧
      (pins (txAt 1 0 0) 0 0 0).TxOn ∧ gives (exec .txAwaitCsLow (pins (txAt 1 0 0) 0 0 0)) (pins (txAt 2 0 0) 0 0 0) = true ∧
      (txAt 1 0 0).TxOn ∧ (txAt 1 0 0).tx.state.toNat < 5 ∧ (txAt 1 0 0).pins.cs = 1 ∧
      (chans (txAt 2 0 0) [] [] [0x161]).TxOn ∧
      gives (exec .txLoad (chans (txAt 2 0 0) [] [] [0x161])) (txAt 3 0x61 8) = true ∧
      (txAt 2 0 0).TxOn ∧ (txAt 2 0 0).ch.txin = [] ∧ gives (exec .txLoad (txAt 2 0 0)) (txAt 2 0 0) = true := by decide

/-- V-TX7 to V-TX10. -/
theorem test_witness_TxEmitsOneBit :
    (pins (txAt 3 0xC2 7) 0 1 0).TxOn ∧
      gives (exec .txWaitRise (pins (txAt 3 0xC2 7) 0 1 0))
        { txAt 4 0x84 6 with pins := ⟨0, 1, 0, some 1⟩, log := [.emit 1] } = true ∧
      gives (exec .txWaitRise (pins (txAt 3 0x61 8) 0 1 0))
        { txAt 4 0xC2 7 with pins := ⟨0, 1, 0, some 0⟩, log := [.emit 0] } = true ∧
      (txAt 3 0 8).TxOn ∧ (txAt 3 0 8).pins.sck = 0 ∧ (txAt 3 0 8).tx.state.toNat < 5 ∧
      (txAt 4 0 0).TxOn ∧ gives (exec .txWaitFall (txAt 4 0 0)) (txAt 2 0 0) = true ∧
      (txAt 4 0 5).tx.bits ≠ 0 ∧ gives (exec .txWaitFall (txAt 4 0 5)) (txAt 3 0 5) = true ∧
      (pins (txAt 4 0 5) 0 1 0).TxOn ∧ (pins (txAt 4 0 5) 0 1 0).pins.sck = 1 := by decide

theorem test_witness_TxTouchesOnlyItsOwn :
    Instr.agent .txLoad = .tx ∧ ¬(chans bareDevice [] [] [1]).TxOn ∧
      gives (exec .txLoad (chans bareDevice [] [] [1])) (chans bareDevice [] [] [1]) = true ∧
      ends (exec .txAwaitCsHigh (txAt 0 0 0)) (fun t => t.tx.state == 1) = true ∧
      ends (exec .txAwaitCsHigh { txAt 0 0 0 with outcome := some 1 }) (fun t => t.tx.state == 1) = true ∧
      ends (exec .txWaitRise { txAt 3 0x61 8 with pins := ⟨0, 1, 0, some 1⟩, log := [.spurious] })
        (fun t => t.pins.miso == some 0 && t.log == [.spurious, .emit 0]) = true ∧
      ends (exec .txWaitRise (pins (txAt 3 0x61 8) 0 1 1)) (fun t => t.pins.miso == some 0 && t.log == [.emit 0]) = true := by
  decide

theorem test_witness_PinsHaveOneWriterEach :
    ends (exec (.wireCs 0) live) (fun t => t.pins.cs != live.pins.cs) = true ∧
      ends (exec (.wireSck 1) live) (fun t => t.pins.sck != live.pins.sck) = true ∧
      ends (exec (.wireMosi 1) live) (fun t => t.pins.mosi != live.pins.mosi) = true ∧
      ends (exec .txWaitRise (pins (txAt 3 0x61 8) 0 1 0)) (fun t => t.pins.miso != live.pins.miso) = true := by decide

/-- V-CE1 to V-CE5; the second address is the one past the top of memory. -/
theorem test_witness_RdeXferCopiesOneByte :
    { chans live [] [0x3C] [] with rde := ⟨true, 0x20000000, 4, 1⟩ }.Sound ∧ live.mem.wf = true ∧
      gives (exec .rdeXfer { chans live [] [0x3C] [] with rde := ⟨true, 0x20000000, 4, 1⟩ })
        { live with rde := ⟨true, 0x20000000, 4, 2⟩, mem := [(0x20000001, 0x3C)], log := [.memw 0x20000001 0x3C] } = true ∧
      gives (exec .rdeXfer { chans live [] [0xFFFF] [] with rde := ⟨true, 0xFFFFFFFF, 2, 1⟩ })
        { live with rde := ⟨true, 0xFFFFFFFF, 2, 2⟩, mem := [(0, 0xFF)], log := [.memw 0 0xFF] } = true ∧
      gives (exec .rdeXfer { chans live [] [2] [] with rde := ⟨true, 0, 2, 2⟩ })
        { chans live [] [2] [] with rde := ⟨true, 0, 2, 2⟩ } = true ∧
      { chans live [] [0x11] [] with rde := ⟨false, 0, 2, 0⟩ }.rde.active = false ∧
      { live with rde := ⟨true, 0, 2, 0⟩ }.ch.rxout = [] ∧ ¬State.reset.Sound := by decide

theorem test_witness_EnginePrimitives :
    live.Sound ∧ live.cfg.duplex = true ∧ bareDevice.cfg.duplex = false ∧
      ends (exec (.rdeConfig 0x20001000 2) { live with rde := ⟨true, 1, 1, 1⟩ }) (fun t => t.rde == ⟨true, 0x20001000, 2, 0⟩) = true ∧
      ends (exec .rdeActivate live) (fun t => t.rde.active) = true ∧
      ends (exec .rdeDeactivate { live with rde := ⟨true, 9, 4, 2⟩ }) (fun t => t.rde == ⟨false, 9, 4, 2⟩) = true ∧
      ends (exec (.wreConfig [0x61] 1) live) (fun t => t.wre == ⟨false, true, [0x61], 1, 0⟩) = true ∧
      ends (exec (.wreConfig [0x61] 2) live) (fun t => t.wre == ⟨false, true, [0x61], 2, 0⟩) = true ∧
      { live with wre := ⟨true, true, [0x61], 2, 1⟩ }.wre.data.length ≤ { live with wre := ⟨true, true, [0x61], 2, 1⟩ }.wre.idx.toNat ∧
      ends (exec .wreXfer { live with wre := ⟨true, true, [0x61], 2, 1⟩ })
        (fun t => t.wre.idx == 2 && t.ch.txin.length == 1 && t.draws == 1) = true ∧
      ends (exec .wreActivate live) (fun t => t.wre.active) = true ∧
      ends (exec .wreDeactivate { live with wre := ⟨true, true, [1], 1, 1⟩ }) (fun t => t.wre == ⟨false, true, [1], 1, 1⟩) = true ∧
      gives (exec .wreActivate bareDevice) bareDevice = true := by decide

/-- V-CE6 to V-CE8. -/
theorem test_witness_WreXferFeedsOneByte :
    { live with wre := ⟨true, true, [0x61, 0x62], 2, 0⟩ }.Sound ∧ [(0x61 : Byte), 0x62][0]? = some 0x61 ∧
      gives (exec .wreXfer { live with wre := ⟨true, true, [0x61, 0x62], 2, 0⟩ })
        { chans live [] [] [0x61] with wre := ⟨true, true, [0x61, 0x62], 2, 1⟩ } = true ∧
      { live with wre := ⟨true, true, [0x61, 0x62], 2, 2⟩ }.wre.count.toNat ≤ 2 ∧
      { chans live [] [] full with wre := ⟨true, true, [1, 2, 3, 4, 5], 5, 0⟩ }.params.depth ≤ full.length ∧
      live.wre.active = false ∧ bareDevice.cfg.duplex = false ∧ ¬State.reset.Sound := by decide

/-- V-CE9, V-CE10. -/
theorem test_witness_SequencerPrimitives :
    (rxAt 4 0 0 3).Sound ∧ ends (exec (.seqDeactivate .rx) (rxAt 4 0 0 3)) (fun t => t.rx == ⟨4, 0, 0, 3, false⟩) = true ∧
      gives (exec (.seqRestart .rx) (chans (rxAt 6 0 0 0xFFFFFFFF) [0] [] [])) (chans (rxAt 0 0 0 0) [0] [] []) = true ∧
      gives (exec (.seqActivate .rx) live) (rxAt 0 0 0 0) = true ∧ live.cfg.duplex = true ∧
      gives (exec (.seqRestart .tx) (txAt 4 7 3)) (txAt 0 0 0) = true ∧
      bareDevice.cfg.duplex = false ∧ gives (exec (.seqActivate .tx) bareDevice) bareDevice = true := by decide

/-- V-CE11, V-CE12. -/
theorem test_witness_ChannelPrimitives :
    live.Sound ∧ gives (exec (.chFlush .rxin) (chans live [0, 0, 4] [1] [2])) (chans live [] [1] [2]) = true ∧
      (live.chan .rxin).length < live.params.depth ∧
      gives (exec (.chPut .txin 9) (chans live [] [] [8])) (chans live [] [] [8, 9]) = true ∧
      live.params.depth ≤ ((chans live full [] []).chan .rxin).length ∧
      gives (exec (.chPut .rxin 9) (chans live full [] [])) (chans live full [] []) = true ∧
      (chans live [] [5, 6] []).chan .rxout = 5 :: [6] ∧
      gives (exec (.chGet .rxout) (chans live [] [5, 6] [])) { chans live [] [6] [] with ret := .word 5 } = true ∧
      live.chan .rxout = [] ∧ gives (exec (.chGet .rxout) live) live = true ∧
      gives (exec (.chEmpty .rxout) live) { live with ret := .truth true } = true := by decide

theorem test_witness_OnlyRdeWritesMemory :
    live.mem.wf = true ∧
      ends (exec .rdeXfer { chans live [] [0x3C] [] with rde := ⟨true, 0x20000000, 4, 1⟩ })
        (fun t => t.memRead 0x20000001 != live.memRead 0x20000001) = true := by decide

/-- Two bytes copied by a run that sets nothing up, the last one at the region's end; a third word stays, and a primitive taken alone
holds. -/
theorem test_witness_RdeStaysInsideItsRegion :
    { chans live [] [1, 2, 3] [] with rde := ⟨true, 0x20000000, 2, 0⟩ }.mem.wf = true ∧
      ends (runSteps [.rdeXfer, .rdeXfer, .rdeConfig 0 9, .rdeXfer]
          { chans live [] [1, 2, 3] [] with rde := ⟨true, 0x20000000, 2, 0⟩ })
        (fun t => t.mem == [(0x20000000, 1), (0x20000001, 2)] && t.ch.rxout == [3] && t.rde.idx == 2) = true := by decide

/-- V-ARM2, V-ARM5, V-ARM6, V-ARM7, V-H11, V-H16, V-H17. -/
theorem test_witness_ArmChecksInOrder :
    State.reset.TaskFree 1 ∧ State.reset.life = .unbuilt ∧
      ends (exec (.arm 1 0 4 .await) State.reset) (fun t => t.fault == some .notConstructed) = true ∧
      { live with life := .dead }.TaskFree 1 ∧
      ends (exec (.arm 1 0 4 .await) { live with life := .dead }) (fun t => t.fault == some .useAfterDeinit) = true ∧
      { live with sig := ⟨false, some 2⟩ }.sig.waiter ≠ none ∧
      gives (exec (.arm 1 0 0 .await) { live with sig := ⟨false, some 2⟩ })
        { live with sig := ⟨false, some 2⟩, fault := some .overlapArm } = true ∧
      live.TaskFree 1 ∧ gives (exec (.arm 1 0 0 .await) live) { live with fault := some .budgetRange } = true ∧
      gives (exec (.arm 1 0 0xFFFF .await) live) { live with fault := some .budgetRange } = true ∧
      bareDevice.TaskFree 1 ∧ bareDevice.cfg.hasCb = false ∧ (4 : Word).toNat ≤ 2 ^ bareDevice.params.w - 2 ∧
      gives (exec (.arm 1 0 4 .callback) bareDevice) { bareDevice with log := [.error 1 .noCallback] } = true ∧
      { taskAt .read (.arming .a1) with sig := ⟨false, some 2⟩ }.TaskAt 1 .read (.arming .a1) ∧
      ends (exec (.arm 1 0 4 .await) { taskAt .read (.arming .a1) with sig := ⟨false, some 2⟩ })
        (fun t => t.fault == some .overlapArm) = true ∧
      armBudget { live.cfg with cap := some 0 } .read = 0 ∧
      ends (exec (.arm 1 0 4 .await) { taskAt .read (.arming .a1) with cfg := { live.cfg with cap := some 0 } })
        (fun t => t.fault == some .budgetRange) = true ∧
      (taskAt (.readInto 0 4) (.arming .a1)).TaskAt 1 (.readInto 0 4) (.arming .a1) ∧ armMode (.readInto 0 4) = .callback ∧
      gives (exec (.arm 1 0 0 .await) { taskAt (.readInto 0 4) (.arming .a1) with cfg := bareDevice.cfg })
        { live with cfg := bareDevice.cfg, log := [.error 1 .noCallback] } = true := by decide

/-- V-ARM4: the stale word and the running agents are gone after the first phase, of the command ARM and of READ's ARM. -/
theorem test_witness_ArmFirstPhaseResets :
    live.TaskFree 1 ∧ live.life = .live ∧ live.sig.waiter = none ∧ Tab.wf .idle live.tasks = true ∧
      armBudget live.cfg (.arm 0 0xFFFE .await) ≤ 2 ^ live.params.w - 2 ∧
      ends (exec (.arm 1 0 0xFFFE .await) { chans live [0] [2] [3] with rde := ⟨true, 7, 4, 2⟩ })
        (fun t => t.ch == ⟨[], [], []⟩ && t.rde == ⟨false, 7, 4, 2⟩ && t.holder == some 1 &&
          t.task 1 == .busy (.arm 0 0xFFFE .await) (.arming .a2)) = true ∧
      (taskAt .read (.arming .a1)).TaskAt 1 .read (.arming .a1) ∧
      1 ≤ armBudget (taskAt .read (.arming .a1)).cfg .read ∧
      ends (exec (.arm 1 0 0 .blocking) (taskAt .read (.arming .a1)))
        (fun t => t.task 1 == .busy .read (.arming .a2)) = true := by decide

/-- V-ARM4, V-ARM8, V-ARM9: an ARM command at the greatest budget, and the ARM of a read command. -/
theorem test_witness_ArmRunsToCompletion :
    live.TaskFree 1 ∧ armBudget live.cfg (.arm 0 0xFFFE .await) ≤ 2 ^ live.params.w - 2 ∧
      ends (runSteps (List.replicate 7 (.arm 1 0 0xFFFE .await))
          { chans live [0] [2] [] with sig := ⟨true, none⟩, defer := some 2 })
        (fun t => t.ch == ⟨[0xFFFE], [], []⟩ && !t.sig.flag && t.defer == some 2 && t.rx == ⟨0, 0, 0, 0, true⟩ &&
          t.holder == none && t.task 1 == .idle && t.window == some ⟨1, false⟩ && !t.deferOwn) = true ∧
      (taskAt .read (.arming .a1)).TaskAt 1 .read (.arming .a1) ∧ Tab.wf .idle (taskAt .read (.arming .a1)).tasks = true ∧
      ends (runSteps (List.replicate 7 (.arm 1 0 0 .blocking))
          { taskAt .read (.arming .a1) with stg := ⟨true, [0x61, 0x62, 0x63, 0x64, 0x65], 1⟩ })
        (fun t => t.wre == ⟨true, true, [0x61, 0x62, 0x63, 0x64, 0x65], 4, 0⟩ && t.stg.reps == 0 &&
          t.rde == ⟨true, 0x20000000, 4, 0⟩ && t.task 1 == .busy .read .spinning) = true ∧
      live.cfg.hasCb = true ∧
      ends (runSteps (List.replicate 7 (.arm 1 0 4 .callback)) { live with deferOwn := true })
        (fun t => t.window == some ⟨1, true⟩ && !t.deferOwn && t.xfer.cbReq) = true := by decide

theorem test_witness_ArmHoldsOnFullChannel :
    (chans (taskAt .read (.arming .a7)) full [] []).TaskAt 1 .read (.arming .a7) ∧ live.params.depth ≤ full.length ∧
      gives (exec (.arm 1 0 0 .blocking) (chans (taskAt .read (.arming .a7)) full [] []))
        (chans (taskAt .read (.arming .a7)) full [] []) = true ∧
      (chans (eotAt 2 4) full [] []).rx.active = false ∧ (chans (eotAt 2 4) full [] []).eotPhase = 2 ∧
      ends (runSteps [.eotPlaceholder, .rxEnd, .deinit 1, .wireCs 0, .eotPlaceholder] (chans (eotAt 2 4) full [] []))
        (fun t => t.eotPhase == 2 && t.ch.rxin == full) = true := by decide

/-- V-EOT1 to V-EOT6. -/
theorem test_witness_ChipSelectEdgeLatches :
    (pins live 0 0 0).fault = none ∧ ends (exec (.wireCs 1) (pins live 0 0 0)) (fun t => t.irq.pending && t.pins.cs == 1) = true ∧
      ends (exec (.wireCs 0) live) (fun t => !t.irq.pending) = true ∧
      ends (exec (.wireCs 1) live) (fun t => !t.irq.pending) = true ∧
      ends (exec (.wireCs 1) { pins live 0 0 0 with irq := ⟨true, true⟩ }) (fun t => t.irq.pending) = true ∧
      ends (exec (.wireCs 1) { pins live 0 0 0 with irq := ⟨false, false⟩, life := .dead }) (fun t => !t.irq.pending) = true ∧
      ends (exec (.csdetEdge 0 1) { live with eotPhase := 4 }) (fun t => t.irq.pending) = true := by decide

/-- V-EOT7 to V-EOT13. -/
theorem test_witness_HandlerStopsAndChecks :
    { live with irq := ⟨true, true⟩ }.Sound ∧
      gives (exec .eotEntry { live with irq := ⟨true, true⟩ }) { live with eotPhase := 1 } = true ∧
      { eotAt 3 4 with irq := ⟨true, true⟩ }.eotPhase.toNat < 8 ∧ (eotAt 3 4).eotPhase ≠ 0 ∧
      ends (exec .eotStopEngines { eotAt 1 4 with rde := ⟨true, 0, 4, 2⟩, wre := ⟨true, true, [], 0, 0⟩ })
        (fun t => t.rde == ⟨false, 0, 4, 2⟩ && !t.wre.active && t.eotPhase == 2) = true ∧
      (eotAt 2 4).Sound ∧ gives (exec .eotPlaceholder (eotAt 2 4)) (chans (eotAt 3 4) [0] [] []) = true ∧
      gives (exec .eotPlaceholder (chans (eotAt 2 4) full [] [])) (chans (eotAt 2 4) full [] []) = true ∧
      (eotAt 3 4).ch.rxout = [] ∧ gives (exec .eotCheck (eotAt 3 4)) { eotAt 0 4 with log := [.spurious] } = true ∧
      gives (exec .eotCheck (chans (eotAt 3 4) [] [7] [])) (chans (eotAt 4 4) [] [7] []) = true ∧
      (eotAt 0 4).Sound ∧ gives (exec .eotStopEngines (eotAt 0 4)) (eotAt 0 4) = true ∧
      gives (exec .eotCheck (eotAt 7 4)) (eotAt 7 4) = true := by decide

/-- V-EOT14 to V-EOT19, V-EOT21. -/
theorem test_witness_HandlerAccounts :
    (chans (eotAt 4 10) [] [7] []).Sound ∧ live.params.w ≤ 32 ∧
      gives (exec .eotAccount (chans (eotAt 3 4) [] [7] [])) (chans (eotAt 3 4) [] [7] []) = true ∧
      ends (exec .eotAccount (chans (eotAt 4 10) [] [7] [])) (fun t => t.outcome == some 3 && t.eotPhase == 5) = true ∧
      (0xFFFF : Word).toNat = 2 ^ live.params.w - 1 ∧
      ends (exec .eotAccount (chans (eotAt 4 20) [] [0xFFFF] [])) (fun t => t.outcome == some 20) = true ∧
      ends (exec .eotAccount (chans (eotAt 4 4) [] [0] [])) (fun t => t.outcome == some 4) = true ∧
      ends (exec .eotAccount (chans (eotAt 4 4) [] [4] [])) (fun t => t.outcome == some 0) = true ∧
      ends (exec .eotAccount (chans (eotAt 4 4) [] [0x3C] [])) (fun t => t.outcome == some (-56)) = true ∧
      ends (exec .eotAccount (chans (eotAt 4 1) [] [0xFFFE] [])) (fun t => t.outcome == some (-65533)) = true ∧
      ends (exec .eotAccount { chans (eotAt 4 20) [] [0xFF] [] with params := ⟨8, 4⟩ }) (fun t => t.outcome == some 20) = true := by
  decide

/-- V-EOT22 to V-EOT26. -/
theorem test_witness_HandlerSignalsAndReturns :
    (eotAt 5 4).Sound ∧
      ends (exec .eotStopSeq { eotAt 5 4 with rx := ⟨0, 0, 0, 2, true⟩, tx := ⟨2, 0, 0, true⟩ })
        (fun t => t.rx == ⟨0, 0, 0, 2, false⟩ && t.tx == ⟨2, 0, 0, false⟩ && t.eotPhase == 6) = true ∧
      gives (exec .eotSignal (eotAt 6 4)) { eotAt 7 4 with sig := ⟨true, none⟩ } = true ∧
      { eotAt 7 4 with outcome := some 2 }.Sound ∧ (eotAt 7 4).defer = none ∧
      ends (exec .eotCallback { eotAt 7 4 with outcome := some 2 }) (fun t => t.defer == some 2 && t.eotPhase == 0) = true ∧
      gives (exec .eotCallback { eotAt 7 4 with outcome := some 5, defer := some 2 })
        { eotAt 7 4 with outcome := some 5, defer := some 2, fault := some .callbackOverrun } = true ∧
      { live with eotPhase := 7 }.xfer.cbReq = false ∧ gives (exec .eotCallback { live with eotPhase := 7 }) live = true ∧
      gives (exec .eotCallback (eotAt 6 4)) (eotAt 6 4) = true ∧ gives (exec .eotSignal (eotAt 5 4)) (eotAt 5 4) = true := by
  decide

/-- The device armed with budget 2, RX waiting for chip-select to assert. -/
def ready : State :=
  { rxAt 2 0 0 2 with rde := ⟨true, 0x20000000, 2, 0⟩, xfer := ⟨some 2, 0x20000000, false⟩ }

/-- The same on a device without a data-out pin. -/
def readyBare : State :=
  { bareDevice with rx := ⟨2, 0, 0, 2, true⟩, rde := ⟨true, 0x20000000, 2, 0⟩, xfer := ⟨some 2, 0x20000000, false⟩ }

/-- V-RX27: no byte, K = B with bits after it, and K > B, against the budget 2; steps of TX and WRE come between. -/
theorem test_witness_HandlerCountLaw :
    ReadyForFrame ready 2 ∧ ready.mem.wf = true ∧ ready.tx.state.toNat < 5 ∧ [1, (0 : Level)].length < 8 ∧
      ends (runSteps (frameSteps [] []) ready) (fun t => t.outcome == some 0 && t.sig.flag && t.mem == []) = true ∧
      ends (runSteps (frameSteps [0x3C, 0x81] [1, 0]) ready)
        (fun t => t.outcome == some 2 && t.mem == [(0x20000000, 0x3C), (0x20000001, 0x81)]) = true ∧
      ends (runSteps (frameSteps [0x3C, 0x81, 0x7E] [1]) ready)
        (fun t => t.outcome == some 2 && t.mem == [(0x20000000, 0x3C), (0x20000001, 0x81)]) = true ∧
      ((.txAwaitCsHigh :: frameSteps [0x3C] []).filter fun i => i.agent != Agent.tx && i.agent != Agent.wre) =
        frameSteps [0x3C] [] ∧
      ends (runSteps (.txAwaitCsHigh :: frameSteps [0x3C] []) { ready with tx := ⟨0, 0, 0, true⟩ })
        (fun t => t.outcome == some 1 && t.tx.state == 1) = true := by
  refine ⟨?_, by decide, by decide, by decide, by decide, by decide, by decide, by decide, by decide⟩
  constructor <;> decide

/-- The same runs are runs PRIO allows on a device without a data-out pin; on one with it TX's step would have to come first. -/
theorem test_witness_HandlerCountLaw_prio :
    ReadyForFrame readyBare 2 ∧ readyBare.cfg.duplex = false ∧ readyBare.sig.flag = false ∧ readyBare.holder = none ∧
      prioRun (frameSteps [0x3C, 0x81] [1]) readyBare = true ∧ prioRun (frameSteps [0x3C, 0x81, 0x7E] []) readyBare = true ∧
      prioRun (frameSteps [] []) { ready with tx := ⟨0, 0, 0, true⟩ } = false ∧
      { readyBare with holder := some 1, tasks := [(1, .spin)] }.task 1 = .spin ∧
      prioRun (frameSteps [] [1]) { readyBare with holder := some 1, tasks := [(1, .spin)] } = true := by
  refine ⟨?_, by decide, by decide, by decide, by decide, by decide, by decide, by decide, by decide⟩
  constructor <;> decide

/-- V-H1 to V-H4. -/
theorem test_witness_ConstructBuildsTheDevice :
    State.reset.TaskFree 1 ∧
      gives (exec (.construct 1 (some 4) 0x20000000 0 ⟨2, 3, 4, some 5⟩ (some 7) .soft) State.reset) live = true ∧
      ends (exec (.construct 1 (some 4) 0x20000000 0 ⟨2, 3, 4, none⟩ none .soft) State.reset)
        (fun t => t.life == .live && t.cfg.cap == some 4 && !t.cfg.duplex && !t.cfg.hasCb && t.irq.bound) = true ∧
      live.TaskFree 1 ∧
      ends (exec (.construct 1 none 0 0 ⟨2, 3, 4, none⟩ none .soft) live) (fun t => t.fault == some .reconstruct) = true ∧
      ends (exec (.construct 1 none 0 0 ⟨2, 3, 4, none⟩ none .hard) State.reset) (fun t => t.fault == some .hardIrq) = true ∧
      { live with life := .dead }.TaskFree 1 ∧
      ends (exec (.construct 1 none 0 0 ⟨2, 3, 4, none⟩ none .hard) { live with life := .dead })
        (fun t => t.fault == some .useAfterDeinit) = true := by decide

/-- V-H5 to V-H8, and a source that crosses the top of memory (R211). -/
theorem test_witness_WriteStagesACopy :
    live.TaskFree 1 ∧ bareDevice.TaskFree 1 ∧
      ends (exec (.write 1 0 2 1) bareDevice) (fun t => t.fault == some .noDataOut) = true ∧
      ends (exec (.write 1 0 2 (-2)) live) (fun t => t.fault == some .repeatsRange) = true ∧
      { live with mem := [(0, 0x62), (0xFFFFFFFF, 0x61)] }.raced 0xFFFFFFFF = false ∧
      gives (exec (.write 1 0xFFFFFFFF 2 (-1)) { live with mem := [(0, 0x62), (0xFFFFFFFF, 0x61)] })
        { live with mem := [(0, 0x62), (0xFFFFFFFF, 0x61)], stg := ⟨true, [0x61, 0x62], -1⟩ } = true ∧
      Tab.wf .idle live.tasks = true := by decide

/-- V-H9, V-H19, and P1's return. -/
theorem test_witness_BufferReadsStartAndReturn :
    live.TaskFree 1 ∧ live.cfg.cap ≠ none ∧ bareDevice.cfg.cap = none ∧
      gives (exec (.read 1) bareDevice) { bareDevice with log := [.error 1 .noBuffer] } = true ∧
      gives (exec (.iterStep 1) live) (taskAt .iterStep (.arming .a1)) = true ∧
      (taskAt .read .spinning).TaskAt 1 .read .spinning ∧
      gives (exec (.read 1) (taskAt .read .spinning)) { taskAt .read .spinning with tasks := [(1, .spin)] } = true ∧
      (taskAt .read (.returning 2)).TaskAt 1 .read (.returning 2) ∧
      gives (exec (.read 1) (taskAt .read (.returning 2))) { live with log := [.result 1 (.view 0x20000000 2)] } = true ∧
      ends (exec (.iterStep 1) (taskAt .iterStep (.returning (-56)))) (fun t => t.fault == some .countNegative) = true := by
  decide

/-- V-H10, V-H20, and P2's return. -/
theorem test_witness_CallerReadsStartAndReturn :
    bareDevice.TaskFree 1 ∧ gives (exec (.readInto 1 0 2) bareDevice) { bareDevice with log := [.error 1 .noCallback] } = true ∧
      live.cfg.hasCb = true ∧ gives (exec (.readInto 1 9 2) live) (taskAt (.readInto 9 2) (.arming .a1)) = true ∧
      gives (exec (.asReadInto 1 9 2) live) (taskAt (.asReadInto 9 2) (.arming .a1)) = true ∧
      (taskAt (.readInto 9 2) .leaving).TaskAt 1 (.readInto 9 2) .leaving ∧
      gives (exec (.readInto 1 0 0) (taskAt (.readInto 9 2) .leaving)) live = true ∧
      (taskAt (.asReadInto 9 2) (.returning (-56))).TaskAt 1 (.asReadInto 9 2) (.returning (-56)) ∧
      gives (exec (.asReadInto 1 0 0) (taskAt (.asReadInto 9 2) (.returning (-56)))) { live with log := [.result 1 (.count (-56))] } =
        true := by decide

/-- A live device meets the invariant of the device's life. -/
theorem test_live_LifeInv : LifeInv live := by
  constructor <;> first | decide | (intros; rfl)

/-- L1.6, V-H16. -/
theorem test_witness_DeinitTearsDown :
    State.reset.TaskFree 1 ∧
      ends (exec (.deinit 1) State.reset) (fun t => t.fault == some .notConstructed) = true ∧
      live.TaskFree 1 ∧ live.TaskFree 2 ∧ live.life ≠ .unbuilt ∧ Tab.wf .idle live.tasks = true ∧
      ends (exec (.deinit 1) (rxAt 3 0 8 4))
        (fun t => t.life == .dead && !t.rx.active && !t.irq.bound && gives (exec (.deinit 2) t) t) = true := by decide

/-- V-H12, V-H13. -/
theorem test_witness_OutcomeReadReturnsTheCount :
    live.TaskFree 1 ∧ live.outcome = none ∧
      ends (exec (.outcomeRead 1) live) (fun t => t.fault == some .outcomeUnwritten) = true ∧
      { live with outcome := some 2 }.TaskFree 1 ∧
      gives (exec (.outcomeRead 1) { live with outcome := some 2 })
        { live with outcome := some 2, log := [.result 1 (.count 2)] } = true ∧
      (taskAt .read .outcome).TaskAt 1 .read .outcome ∧
      ends (exec (.outcomeRead 1) (taskAt .read .outcome)) (fun t => t.fault == some .outcomeUnwritten) = true ∧
      gives (exec (.outcomeRead 1) { taskAt .read .outcome with outcome := some 2 })
        { taskAt .read (.returning 2) with outcome := some 2 } = true := by decide

/-- V-H14, V-H15 at the first byte of the region and at the first one past it. -/
theorem test_witness_MemReadReturnsTheByte :
    State.reset.TaskFree 1 ∧ State.reset.window = none ∧
      gives (exec (.memRead 1 0x20000000) { State.reset with mem := [(0x20000000, 0xA5)] })
        { State.reset with mem := [(0x20000000, 0xA5)], log := [.result 1 (.byte 0xA5)] } = true ∧
      { eotAt 0 4 with window := some ⟨1, false⟩ }.raced 0x20000000 = true ∧
      { eotAt 0 4 with window := some ⟨1, false⟩ }.raced 0x20000004 = false ∧
      { eotAt 0 4 with window := some ⟨1, false⟩ }.TaskFree 1 ∧
      ((0x20000000 : Addr) - (eotAt 0 4).xfer.dst).toNat < (4 : Word).toNat ∧
      (4 : Word).toNat ≤ ((0x20000004 : Addr) - (eotAt 0 4).xfer.dst).toNat ∧
      ends (exec (.memRead 1 0x20000000) { eotAt 0 4 with window := some ⟨1, false⟩ })
        (fun t => t.draws == 1 && t.log.length == 1) = true := by decide

theorem test_witness_RacedReadTellsNothing :
    { eotAt 0 4 with window := some ⟨1, false⟩ }.window ≠ none ∧ (eotAt 0 4).xfer.b = some 4 ∧
      ((0x20000003 : Addr) - (eotAt 0 4).xfer.dst).toNat < (4 : Word).toNat ∧
      ends (exec (.memRead 1 0x20000003) { eotAt 0 4 with window := some ⟨1, false⟩ }) (fun t => t.log.length == 1) = true ∧
      ends (exec (.memRead 1 0x20000003) { eotAt 0 4 with window := some ⟨1, false⟩, mem := [(0x20000003, 9)] })
        (fun t => t.log.length == 1) = true := by decide

/-- V-H16, V-H17. -/
theorem test_witness_LifecycleChecksComeFirst :
    Instr.agent (.read 1) = .host ∧ (Instr.read 1).task? = some 1 ∧ State.reset.TaskFree 1 ∧
      ends (exec (.read 1) State.reset) (fun t => t.fault == some .notConstructed) = true ∧
      { live with life := .dead }.TaskFree 1 ∧
      ends (exec (.read 1) { live with life := .dead }) (fun t => t.fault == some .useAfterDeinit) = true := by decide

/-- V-SIG7, V-SIG8, V-SIG10. -/
theorem test_witness_InterleavingRestrictions :
    (Instr.sigResume 1).hostContext = true ∧
      { live with eotPhase := 5, sig := ⟨true, some 1⟩, tasks := [(1, .suspended .iterStep)] }.eotPhase ≠ 0 ∧
      gives (exec (.sigResume 1) { live with eotPhase := 5, sig := ⟨true, some 1⟩, tasks := [(1, .suspended .iterStep)] })
        { live with eotPhase := 5, sig := ⟨true, some 1⟩, tasks := [(1, .suspended .iterStep)] } = true ∧
      (taskAt .read .spinning).holder = some 1 ∧ Instr.deferRun.hostContext = true ∧ Instr.deferRun.task? ≠ some 1 ∧
      (Instr.memRead 2 0).task? ≠ some 1 ∧
      gives (exec (.memRead 2 0) (taskAt .read .spinning)) (taskAt .read .spinning) = true ∧
      (Instr.csdetEdge 0 1).agent = .eot ∧ State.reset.life ≠ .live ∧
      (Instr.wireCs 0).agent = .master ∧ prio (.wireCs 0) [.sigPoll 1, .rxEnd] live = true ∧
      Instr.sigPoll 1 ∈ [Instr.sigPoll 1, .rxEnd] ∧ (Instr.sigPoll 1).agent ≠ .master ∧
      gives (takeStep (.sigPoll 1) live) live = true := by decide

/-- V-SIG1, V-SIG3, and the steps that agents take: EOT.SIGNAL raises the flag, SIG.POLL consumes it. -/
theorem test_witness_FlagWriters :
    live.Sound ∧ ends (exec .sigSet { live with sig := ⟨false, some 3⟩ }) (fun t => t.sig == ⟨true, some 3⟩) = true ∧
      ends (exec .sigClear { live with sig := ⟨true, some 3⟩ }) (fun t => t.sig == ⟨false, some 3⟩) = true ∧
      (eotAt 6 4).sig.flag = false ∧ ends (takeStep .eotSignal (eotAt 6 4)) (fun t => t.sig.flag) = true ∧
      ends (takeStep (.sigPoll 1) { live with sig := ⟨true, none⟩, tasks := [(1, .spin)], holder := some 1 })
        (fun t => !t.sig.flag) = true ∧
      gives (takeStep .sigSet live) live = true := by decide

/-- V-SIG4, V-SIG5. -/
theorem test_witness_SigWaitParks :
    (taskAt .iterStep .waiting).TaskAt 1 .iterStep .waiting ∧ (taskAt .iterStep .waiting).sig.waiter = none ∧
      Tab.wf .idle (taskAt .iterStep .waiting).tasks = true ∧
      gives (exec (.sigWait 1) { taskAt .iterStep .waiting with sig := ⟨true, none⟩ })
        { live with sig := ⟨true, some 1⟩, tasks := [(1, .suspended .iterStep)] } = true ∧
      { taskAt .iterStep .waiting with sig := ⟨true, some 2⟩ }.sig.waiter = some 2 ∧
      ends (exec (.sigWait 1) { taskAt .iterStep .waiting with sig := ⟨true, some 2⟩ })
        (fun t => t.fault == some .secondWaiter) = true ∧
      gives (exec (.sigWait 1) (taskAt .iterStep .outcome)) (taskAt .iterStep .outcome) = true ∧
      (taskAt .iterStep .outcome).task 1 = .busy .iterStep .outcome := by decide

/-- V-SIG6, V-SIG9, V-SIG10; and R216, R353: a waiter parked at DEINIT with the flag set is not resumed. -/
theorem test_witness_FlagIsConsumedOnce :
    { live with sig := ⟨true, some 1⟩, tasks := [(1, .suspended .iterStep)] }.task 1 = .suspended .iterStep ∧
      live.holder = none ∧ Tab.wf .idle [(1, TaskState.suspended .iterStep)] = true ∧
      gives (exec (.sigResume 1) { live with sig := ⟨true, some 1⟩, tasks := [(1, .suspended .iterStep)] })
        (taskAt .iterStep .outcome) = true ∧
      { live with sig := ⟨true, none⟩, tasks := [(1, .spin)], holder := some 1 }.task 1 = .spin ∧
      Tab.wf .idle [(1, TaskState.spin)] = true ∧
      gives (exec (.sigPoll 1) { live with sig := ⟨true, none⟩, tasks := [(1, .spin)], holder := some 1 })
        (taskAt .read .outcome) = true ∧
      live.life = .live ∧ live.sig.flag = false ∧
      ends (exec (.sigResume 1)
          { live with sig := ⟨true, some 1⟩, tasks := [(1, .suspended .iterStep)], window := some ⟨1, false⟩ })
        (fun t => t.window == none) = true ∧
      { live with life := .dead, sig := ⟨true, some 1⟩ }.life ≠ .live ∧
      gives (exec (.sigResume 1) { live with life := .dead, sig := ⟨true, some 1⟩, tasks := [(1, .suspended .iterStep)] })
        { live with life := .dead, sig := ⟨true, some 1⟩, tasks := [(1, .suspended .iterStep)] } = true := by decide

/-- V-SIG12, from the wait on. -/
theorem test_witness_SetBeforeWaitIsObserved :
    { taskAt (.asReadInto 0x20003000 4) .waiting with sig := ⟨true, none⟩ }.TaskAt 1 (.asReadInto 0x20003000 4) .waiting ∧
      (taskAt (.asReadInto 0x20003000 4) .waiting).life = .live ∧
      ends (runSteps [.sigWait 1, .sigResume 1] { taskAt (.asReadInto 0x20003000 4) .waiting with sig := ⟨true, none⟩ })
        (fun t => t.sig == ⟨false, none⟩ && t.holder == some 1) = true := by decide

/-- V-SIG11, and the race window of R69 in each case. -/
theorem test_witness_DeferRunCallsBack :
    { live with life := .dead, defer := some 2 }.holder = none ∧
      gives (exec .deferRun { live with life := .dead, defer := some 2 }) { live with life := .dead, log := [.callback 2] } = true ∧
      live.defer = none ∧ (taskAt .read .spinning).holder ≠ none ∧ (eotAt 5 4).eotPhase ≠ 0 ∧
      ends (exec .deferRun { live with defer := some 2, deferOwn := true, window := some ⟨1, true⟩ })
        (fun t => t.window == none && !t.deferOwn) = true ∧
      ends (exec .deferRun { live with defer := some 2, deferOwn := false, window := some ⟨1, true⟩ })
        (fun t => t.window == some ⟨1, true⟩) = true ∧
      ends (exec .deferRun { live with defer := some 2, deferOwn := true, window := some ⟨1, false⟩ })
        (fun t => t.window == some ⟨1, false⟩) = true := by decide

/-- V-TX11, V-TX12. -/
theorem test_witness_MasterDrivesAndSamples :
    live.fault = none ∧ gives (exec (.wireMosi 1) live) (pins live 1 0 1) = true ∧
      { txAt 4 0xC2 7 with pins := ⟨0, 1, 0, some 0⟩ }.tx.active = true ∧ (txAt 4 0xC2 7).cfg.duplex = true ∧
      ends (exec .wireSample { txAt 4 0xC2 7 with pins := ⟨0, 1, 0, some 0⟩ }) (fun t => t.ret == .level 0 && t.draws == 0) = true ∧
      ends (exec .wireSample (txAt 2 0 0)) (fun t => t.draws == 1) = true := by decide

/-- The reset state meets the invariants of registers, storage, life and scheduler, and has a next step. -/
theorem test_witness_invariants_kept :
    RegInv (State.reset.withFetchWord 8 0x81) ∧ StoreInv (State.reset.withFetchWord 8 0x81) ∧
      LifeInv (State.reset.withFetchWord 8 0x81) ∧ HostInv (State.reset.withFetchWord 8 0x81) ∧
      gives (step (State.reset.withFetchWord 8 0x81)) State.reset = true := by
  refine ⟨?_, ?_, ?_, ?_, by decide⟩
  · constructor <;> decide
  · constructor <;> decide
  · constructor <;> first | decide | (intros; simp_all [State.task, State.withFetchWord, State.reset, Tab.get])
  · constructor <;> intros <;> simp_all [State.task, State.withFetchWord, State.reset, Signal.built, Tab.get]

/-- LOG, LIFE, CFG and OUTCOME change. -/
theorem test_witness_WhatOnlySomeStepsChange :
    ends (exec (.deinit 1) live) (fun t => t.life != live.life) = true ∧
      ends (exec .eotAccount (chans (eotAt 4 10) [] [7] [])) (fun t => t.outcome != none) = true ∧
      (∀ k c b x p cb q, Instr.eotAccount ≠ .construct k c b x p cb q) := by
  refine ⟨by decide, by decide, ?_⟩
  intros; simp

end Sys2Proof.Tests
end

section
namespace Sys2Proof.Proofs

open Sys2Proof.Machine

/-- Each of the three forms of answer of `StepsTo` (a hold, a fault recorded and nothing else, an effect) carries a next state. -/
theorem next_of_stepsTo {s : State} {i : Instr} {o : Out} (h : StepsTo s i o) : ∃ t, o = .next t := by
  obtain hhold | ⟨f, _, hfault⟩ | ⟨t, heffect, _⟩ := h
  · exact ⟨s, hhold⟩
  · exact ⟨{ s with fault := some f }, hfault⟩
  · exact ⟨t, heffect⟩

/-- Settles O7: every step's answer has one of the forms of `StepsTo`, agent by agent (00_scope.md R9, 60_exceptions.md R300). -/
theorem everyStepAnswersNext : Obligations.EveryStepAnswersNext :=
  fun i s => next_of_stepsTo (exec_stepsTo i s)

end Sys2Proof.Proofs
end

section
/-! What a step leaves of the fields that few steps write: inversion lemmas over `Effect`, one per field. -/

namespace Sys2Proof.Machine

variable {s t : State} {i : Instr} {k : TaskId} {c : Command} {p : ArmPhase}

@[simp] theorem armDone_ch : (armDone k c s).ch = s.ch := by rw [armDone_frame]

/-- The fields that no phase of ARM writes (42_copy_engines.md R166). -/
structure ArmFrame (s t : State) : Prop where
  irq      : t.irq = s.irq
  eotPhase : t.eotPhase = s.eotPhase
  pins     : t.pins = s.pins
  life     : t.life = s.life
  cfg      : t.cfg = s.cfg
  mem      : t.mem = s.mem
  params   : t.params = s.params
  waiter   : t.sig.waiter = s.sig.waiter

theorem ArmEffect.frame (h : ArmEffect k c s p t) : ArmFrame s t := by
  cases h with
  | error => constructor <;> rfl
  | a1 => constructor <;> simp [State.stopAll]
  | a2 => constructor <;> rfl
  | a3 => constructor <;> rfl
  | a4 => rw [armA4_frame]; constructor <;> rfl
  | a5 => rw [armA5_eq]; constructor <;> rfl
  | a6 => rw [armA6_eq]; constructor <;> rfl
  | a7 => rw [armDone_frame]; constructor <;> simp

/-- FAULT is NONE wherever a step has an effect (10_state.md R50(c)). -/
theorem Effect.fault_eq_none (h : Effect s i t) : s.fault = none := by
  cases h <;> simp_all [State.rxReady_iff, State.txReady_iff]

theorem Effect.params_eq (h : Effect s i t) : t.params = s.params := by
  cases h with
  | armStart _ ha => exact ha.frame.params
  | armPhase _ ha => exact ha.frame.params
  | construct => rfl
  | deinit => simp [State.stopAll]
  | _ => simp

/-- Memory changes only by writes of single bytes. -/
theorem Effect.mem_cases (h : Effect s i t) : t.mem = s.mem ∨ ∃ a b, t.mem = (s.memWrite a b).mem := by
  cases h with
  | rdeXfer => exact .inr ⟨rdeAddr s.rde, wordByte (s.headWord .rxout), rfl⟩
  | armStart _ ha => exact .inl ha.frame.mem
  | armPhase _ ha => exact .inl ha.frame.mem
  | construct => exact .inl rfl
  | deinit => simp [State.stopAll]
  | _ => simp

theorem ArmEffect.tasks_cases (h : ArmEffect k c s p t) : ∃ x, t.tasks = Tab.set .idle s.tasks k x := by
  cases h with
  | error => exact ⟨_, rfl⟩
  | a1 => exact ⟨.busy c (.arming .a2), by simp [State.stopAll]⟩
  | a2 => exact ⟨_, rfl⟩
  | a3 => exact ⟨_, rfl⟩
  | a4 => rw [armA4_frame]; exact ⟨_, rfl⟩
  | a5 => rw [armA5_eq]; exact ⟨_, rfl⟩
  | a6 => rw [armA6_eq]; exact ⟨_, rfl⟩
  | a7 => cases c <;> exact ⟨_, rfl⟩

/-- The task table changes by one entry at a time, and CONSTRUCT empties it. -/
theorem Effect.tasks_cases (h : Effect s i t) :
    t.tasks = s.tasks ∨ t.tasks = [] ∨ ∃ k x, t.tasks = Tab.set .idle s.tasks k x := by
  cases h with
  | construct => exact .inr (.inl rfl)
  | armStart _ ha => exact .inr (.inr ⟨_, ha.tasks_cases⟩)
  | armPhase _ ha => exact .inr (.inr ⟨_, ha.tasks_cases⟩)
  | @deinit k => exact .inr (.inr ⟨k, .idle, by simp [State.stopAll]⟩)
  | @sigResume k c => exact .inr (.inr ⟨k, .busy c .outcome, by simp⟩)
  | @sigPoll k => exact .inr (.inr ⟨k, .busy .read .outcome, by simp⟩)
  | write | readError | read | readSpin | readReturn | readIntoError | readInto | readIntoReturn | asReadInto
  | asReadIntoReturn | iterError | iterStep | iterReturn | outcomeRead | outcomePhase | memRead | sigWait =>
    exact .inr (.inr ⟨_, _, rfl⟩)
  | _ => simp

/-- How a step changes the channels. -/
inductive ChanMove (s t : State) : Prop
  | keep : t.ch = s.ch → ChanMove s t
  | clear : t.ch = ⟨[], [], []⟩ → ChanMove s t
  | pop (c : Channel) : t.ch = (s.pop c).ch → ChanMove s t
  | put (c : Channel) (w : Word) : s.chanFull c = false → t.ch = (s.put c w).ch → ChanMove s t
  | flush (c : Channel) : t.ch = (s.flush c).ch → ChanMove s t

theorem ArmEffect.chanMove (h : ArmEffect k c s p t) : ChanMove s t := by
  cases h with
  | error => exact .keep rfl
  | a1 => exact .clear (by simp)
  | a2 => exact .keep rfl
  | a3 => exact .keep rfl
  | a4 => rw [armA4_frame]; exact .keep rfl
  | a5 => rw [armA5_eq]; exact .keep rfl
  | a6 => rw [armA6_eq]; exact .keep rfl
  | a7 hfull => exact .put _ _ hfull armDone_ch

/-- No step puts a word into a full channel. -/
theorem Effect.chanMove (h : Effect s i t) : ChanMove s t := by
  cases h with
  | construct => exact .clear rfl
  | armStart _ ha => exact ha.chanMove
  | armPhase _ ha => exact ha.chanMove
  | rxAwaitBudget | rxEnd => exact .pop .rxin rfl
  | rdeXfer | eotAccount => exact .pop .rxout rfl
  | txLoad => exact .pop .txin rfl
  | rxKeep _ _ _ hroom => exact .put .rxout _ (State.chanFull_eq_false.mpr hroom) rfl
  | rxReport _ _ hroom => exact .put .rxout _ (State.chanFull_eq_false.mpr hroom) rfl
  | wreXfer _ _ _ _ hroom => exact .put .txin _ (State.chanFull_eq_false.mpr hroom) rfl
  | eotPlaceholder _ _ hroom => exact .put .rxin _ hroom rfl
  | chPut _ hroom => exact .put _ _ hroom rfl
  | chGet => exact .pop _ rfl
  | chFlush => exact .flush _ rfl
  | deinit => exact .keep (by simp [State.stopAll])
  | _ => exact .keep (by simp)

end Sys2Proof.Machine
end

section
/-! O56: the channels within FIFO_DEPTH, memory and the task table in canonical form. -/

namespace Sys2Proof.Machine

variable {s t : State} {i : Instr}

/-- Every channel holds at most FIFO_DEPTH words (10_state.md R30). -/
def State.ChansFit (s : State) : Prop := ∀ c, (s.chan c).length ≤ s.params.depth

theorem storeInv_iff : StoreInv s ↔ s.ChansFit ∧ s.mem.wf = true ∧ Tab.wf .idle s.tasks = true :=
  ⟨fun ⟨hin, hout, htx, hmem, htasks⟩ => ⟨fun c => by cases c <;> assumption, hmem, htasks⟩,
    fun ⟨hch, hmem, htasks⟩ => ⟨hch .rxin, hch .rxout, hch .txin, hmem, htasks⟩⟩

theorem State.chan_congr (h : t.ch = s.ch) (c : Channel) : t.chan c = s.chan c := by
  cases c <;> simp [State.chan, h]

/-- Writing new words to one channel keeps every channel within its depth, if the new words fit. -/
theorem State.ChansFit.setChan {c : Channel} {ws : List Word} (hs : s.ChansFit) (hws : ws.length ≤ s.params.depth) :
    (s.setChan c ws).ChansFit := by
  intro c'
  by_cases h : c' = c
  · subst h; simpa using hws
  · simpa [State.chan_setChan_of_ne s ws h] using hs c'

theorem State.ChansFit.congr (hs : s.ChansFit) (hch : t.ch = s.ch) (hparams : t.params = s.params) : t.ChansFit := by
  intro c
  rw [State.chan_congr hch, hparams]
  exact hs c

theorem ChanMove.chansFit (h : ChanMove s t) (hs : s.ChansFit) (hparams : t.params = s.params) : t.ChansFit := by
  cases h with
  | keep h => exact hs.congr h hparams
  | clear h => intro c; cases c <;> simp [State.chan, h]
  | pop c h =>
    have hfit := hs.setChan (c := c) (ws := (s.chan c).tail) (by have := hs c; simp; omega)
    exact hfit.congr h (by simpa using hparams)
  | put c w hroom h =>
    have hfit := hs.setChan (c := c) (ws := s.chan c ++ [w]) (by simpa using State.chanFull_eq_false.mp hroom)
    exact hfit.congr h (by simpa using hparams)
  | flush c h => exact (hs.setChan (c := c) (ws := []) (by simp)).congr h (by simpa using hparams)

theorem Effect.tasks_wf (h : Effect s i t) (hs : Tab.wf .idle s.tasks = true) : Tab.wf .idle t.tasks = true := by
  obtain h | h | ⟨k, x, h⟩ := h.tasks_cases <;> rw [h]
  · exact hs
  · rfl
  · exact Tab.wf_set hs

theorem Effect.mem_wf (h : Effect s i t) (hs : s.mem.wf = true) : t.mem.wf = true := by
  obtain h | ⟨a, b, h⟩ := h.mem_cases <;> rw [h]
  · exact hs
  · exact State.memWrite_wf hs

theorem Effect.storeInv (h : Effect s i t) (hs : StoreInv s) : StoreInv t := by
  obtain ⟨hch, hmem, htasks⟩ := storeInv_iff.mp hs
  exact storeInv_iff.mpr ⟨h.chanMove.chansFit hch h.params_eq, h.mem_wf hmem, h.tasks_wf htasks⟩

end Sys2Proof.Machine
end

section
namespace Sys2Proof.Proofs

open Sys2Proof.Machine

/-- Settles O56: a put needs room, memory and the task table change by `Tab.set` alone (10_state.md R30, 20_memory.md R60). -/
theorem storeInvKept : Obligations.StoreInvKept := fun _ _ hs h =>
  step_keeps (fun _ _ _ ⟨hin, hout, htx, hmem, htasks⟩ => ⟨hin, hout, htx, hmem, htasks⟩)
    (fun _ _ ⟨hin, hout, htx, hmem, htasks⟩ => ⟨hin, hout, htx, hmem, htasks⟩)
    (fun _ _ _ _ hs heffect => heffect.storeInv hs) hs h

end Sys2Proof.Proofs
end

section
/-! O58: the cooperative scheduler. The invariant is read task by task (`hostInv_iff`), so that a step which writes one entry of
the task table, HOLDER and the waiter is checked at that entry alone (`HostInv.update`). -/

namespace Sys2Proof.Machine

variable {s t : State} {i : Instr} {k : TaskId} {c : Command} {p : ArmPhase}

/-- What the scheduler's invariant says of one task, by whether the task is the holder and whether it is the waiter
(10_state.md R47). -/
def TaskFits : TaskState → (holds waits : Prop) → Prop
  | .idle, holds, waits => ¬holds ∧ ¬waits
  | .busy c p, holds, waits => holds ∧ ¬waits ∧ phaseFits c p = true
  | .suspended c, holds, waits => ¬holds ∧ waits ∧ phaseFits c .waiting = true
  | .spin, holds, waits => holds ∧ ¬waits

theorem hostInv_iff : HostInv s ↔ ∀ k, TaskFits (s.task k) (s.holder = some k) (s.sig.waiter = some k) := by
  constructor
  · rintro ⟨hbusy, hspin, hsusp, hholder, hwaiter⟩ k
    have hh := hholder k
    have hw := hwaiter k
    rcases hx : s.task k with _ | ⟨c, p⟩ | c | _
    · exact ⟨by simpa [hx] using hh, by simpa [hx] using hw⟩
    · exact ⟨(hbusy k c p hx).1, by simpa [hx] using hw, (hbusy k c p hx).2⟩
    · exact ⟨by simpa [hx] using hh, hsusp k c hx⟩
    · exact ⟨hspin k hx, by simpa [hx] using hw⟩
  · intro h
    constructor
    · intro k c p hx
      have := h k; rw [hx] at this
      exact ⟨this.1, this.2.2⟩
    · intro k hx
      have := h k; rw [hx] at this
      exact this.1
    · intro k c hx
      have := h k; rw [hx] at this
      exact this.2
    · intro k hk
      have := h k
      rcases hx : s.task k <;> simp_all [TaskFits]
    · intro k hk
      have := h k
      rcases hx : s.task k <;> simp_all [TaskFits]

theorem HostInv.congr (hs : HostInv s) (htasks : t.tasks = s.tasks) (hholder : t.holder = s.holder)
    (hwaiter : t.sig.waiter = s.sig.waiter) : HostInv t := by
  rw [hostInv_iff] at hs ⊢
  intro k
  rw [hholder, hwaiter, State.task, htasks]
  exact hs k

/-- A step that writes one task's entry keeps the invariant if the entry fits, and the other tasks are the holder and the waiter
as before. -/
theorem HostInv.update {x : TaskState} (hs : HostInv s) (hwf : Tab.wf .idle s.tasks = true)
    (htasks : t.tasks = Tab.set .idle s.tasks k x) (hx : TaskFits x (t.holder = some k) (t.sig.waiter = some k))
    (hholder : ∀ j, j ≠ k → (t.holder = some j ↔ s.holder = some j))
    (hwaiter : ∀ j, j ≠ k → (t.sig.waiter = some j ↔ s.sig.waiter = some j)) : HostInv t := by
  rw [hostInv_iff] at hs ⊢
  intro j
  have hj : t.task j = if j = k then x else s.task j := by rw [State.task, htasks, Tab.get_set hwf]; rfl
  by_cases h : j = k
  · rw [hj, if_pos h, h]; exact hx
  · rw [hj, if_neg h, hholder j h, hwaiter j h]; exact hs j

/-- Task k may run: it is idle and the scheduler free, or it is the holder (44_facade.md R205). -/
def State.MayRun (s : State) (k : TaskId) : Prop := (s.holder = none ∧ s.task k = .idle) ∨ s.holder = some k

theorem State.Starts.mayRun (h : s.Starts k) : s.MayRun k :=
  have ⟨_, _, hholder, htask⟩ := h
  .inl ⟨hholder, htask⟩

theorem State.Continues.mayRun {p : Phase} (h : s.Continues k c p) : s.MayRun k :=
  have ⟨_, _, hholder, _⟩ := h
  .inr hholder

theorem State.MayRun.holder_iff (h : s.MayRun k) {j : TaskId} (hj : j ≠ k) : ¬ s.holder = some j := by
  obtain ⟨h, _⟩ | h := h <;> simp [h, hj.symm]

/-- A task that may run is not the waiter. -/
theorem HostInv.not_waiter (hs : HostInv s) (hk : s.MayRun k) : s.sig.waiter ≠ some k := by
  intro hw
  obtain ⟨c, hc⟩ := hs.waiter k hw
  obtain ⟨_, hidle⟩ | hholder := hk
  · simp [hc] at hidle
  · have := hs.holder k hholder
    simp [hc] at this

/-- A task goes on with its command, or starts one, at a phase of that command. -/
theorem HostInv.run {x : TaskState} (hs : HostInv s) (hwf : Tab.wf .idle s.tasks = true) (hk : s.MayRun k)
    (htasks : t.tasks = Tab.set .idle s.tasks k x) (hx : TaskFits x True False) (hholder : t.holder = some k)
    (hwaiter : t.sig.waiter = s.sig.waiter) : HostInv t := by
  refine hs.update hwf htasks ?_ (fun j hj => ?_) fun j _ => by rw [hwaiter]
  · rw [hholder, hwaiter, eq_true rfl, eq_false (hs.not_waiter hk)]; exact hx
  · rw [hholder]; simpa [hj.symm] using hk.holder_iff hj

/-- A task's command ends. -/
theorem HostInv.finish (hs : HostInv s) (hwf : Tab.wf .idle s.tasks = true) (hk : s.MayRun k)
    (htasks : t.tasks = Tab.set .idle s.tasks k .idle) (hholder : t.holder = none)
    (hwaiter : t.sig.waiter = s.sig.waiter) : HostInv t := by
  refine hs.update hwf htasks ⟨by simp [hholder], by rw [hwaiter]; exact hs.not_waiter hk⟩ (fun j hj => ?_)
    fun j _ => by rw [hwaiter]
  rw [hholder]; simpa using hk.holder_iff hj

/-- No task runs and none waits. -/
theorem HostInv.of_no_tasks (htasks : s.tasks = []) (hholder : s.holder = none) (hwaiter : s.sig.waiter = none) : HostInv s :=
  hostInv_iff.mpr fun k => by simp [State.task, htasks, Tab.get, TaskFits, hholder, hwaiter]

theorem ArmEffect.hostInv (h : ArmEffect k c s p t) (hs : HostInv s) (hwf : Tab.wf .idle s.tasks = true) (hk : s.MayRun k) :
    HostInv t := by
  have arming (q : ArmPhase) : TaskFits (.busy c (.arming q)) True False := ⟨trivial, id, by cases c <;> rfl⟩
  have hwaiter := h.frame.waiter
  cases h with
  | error => exact hs.finish hwf hk rfl rfl hwaiter
  | a1 => exact hs.run hwf hk (by simp [State.stopAll]) (arming .a2) rfl hwaiter
  | a2 => exact hs.run hwf hk rfl (arming .a3) rfl hwaiter
  | a3 => exact hs.run hwf hk rfl (arming .a4) rfl hwaiter
  | a4 => exact hs.run hwf hk (by rw [armA4_frame]; rfl) (arming .a5) rfl hwaiter
  | a5 => exact hs.run hwf hk (by rw [armA5_eq]; rfl) (arming .a6) rfl hwaiter
  | a6 => exact hs.run hwf hk (by rw [armA6_eq]; rfl) (arming .a7) rfl hwaiter
  | a7 =>
    cases c with
    | arm => exact hs.finish hwf hk rfl rfl hwaiter
    | read | readInto | asReadInto | iterStep => exact hs.run hwf hk rfl ⟨trivial, id, rfl⟩ rfl hwaiter

theorem Effect.hostInv (h : Effect s i t) (hs : HostInv s) (hwf : Tab.wf .idle s.tasks = true) : HostInv t := by
  cases h with
  | construct => exact .of_no_tasks rfl rfl rfl
  | armStart hk ha => exact ha.hostInv hs hwf hk.mayRun
  | armPhase hk ha => exact ha.hostInv hs hwf hk.mayRun
  | write hk | readError hk | readIntoError hk | iterError hk | outcomeRead hk | memRead hk | readReturn hk
  | readIntoReturn hk | asReadIntoReturn hk | iterReturn hk => exact hs.finish hwf hk.mayRun rfl rfl rfl
  | deinit hk => exact hs.finish hwf hk.mayRun (by simp [State.stopAll]) rfl (by simp [State.stopAll])
  | read hk | readInto hk | asReadInto hk | iterStep hk => exact hs.run hwf hk.mayRun rfl ⟨trivial, id, rfl⟩ rfl rfl
  | readSpin hk =>
    have ⟨_, _, hholder, _⟩ := hk
    exact hs.run hwf hk.mayRun rfl ⟨trivial, id⟩ hholder rfl
  | @outcomePhase k c n hk =>
    have ⟨_, _, _, htask⟩ := hk
    have hfits : phaseFits c (.returning n) = phaseFits c .outcome := by cases c <;> rfl
    exact hs.run hwf hk.mayRun rfl ⟨trivial, id, hfits ▸ (hs.busy _ _ _ htask).2⟩ rfl rfl
  | sigPoll _ _ hholder =>
    exact hs.run (x := .busy .read .outcome) hwf (.inr hholder) (by simp) ⟨trivial, id, rfl⟩ (by simpa) (by simp)
  | @sigWait k c hk hnone =>
    obtain ⟨_, _, hholder, htask⟩ := hk
    refine hs.update hwf rfl ⟨by simp, rfl, (hs.busy _ _ _ htask).2⟩ (fun j hj => ?_) fun j hj => ?_
    · simp [hholder, hj.symm]
    · simp [hnone, hj.symm]
  | @sigResume k c _ _ _ hholder hwaiter _ htask =>
    have hfits : phaseFits c .waiting = true → phaseFits c .outcome = true := by cases c <;> simp [phaseFits]
    refine hs.update (k := k) (x := .busy c .outcome) hwf (by simp) ⟨rfl, by simp, hfits (hs.suspended _ _ htask).2⟩
      (fun j hj => ?_) fun j hj => ?_
    · simp [hholder, hj.symm]
    · simp [hwaiter, hj.symm]
  | _ => exact hs.congr (by simp) (by simp) (by simp)

end Sys2Proof.Machine
end

section
namespace Sys2Proof.Proofs

open Sys2Proof.Machine

/-- Settles O58: every effect writes at most one task's entry, and it fits HOLDER and the waiter (10_state.md R47, 44_facade.md
R205, 45_completion_signal.md R242, R243). -/
theorem hostInvKept : Obligations.HostInvKept := fun _ _ hs hwf h =>
  (step_keeps (P := fun s => HostInv s ∧ Tab.wf .idle s.tasks = true) (fun _ _ _ ⟨hs, hwf⟩ => ⟨hs.congr rfl rfl rfl, hwf⟩)
    (fun _ _ ⟨hs, hwf⟩ => ⟨hs.congr rfl rfl rfl, hwf⟩)
    (fun _ _ _ _ ⟨hs, hwf⟩ heffect => ⟨heffect.hostInv hs hwf, heffect.tasks_wf hwf⟩) ⟨hs, hwf⟩ h).1

end Sys2Proof.Proofs
end

section
/-! O57: the device's life. CONSTRUCT and DEINIT are the two steps that change LIFE, CFG and the interrupt's binding
(`Effect.life_cases`); every other step is checked field by field. -/

namespace Sys2Proof.Machine

variable {s t : State} {i : Instr} {k : TaskId} {c : Command} {p : ArmPhase}

/-- The state DEINIT leaves, but for the schedule of the tasks (44_facade.md R216). -/
def State.tornDown (s : State) : State := { s.stopAll with irq := ⟨false, false⟩, life := .dead }

@[simp] theorem State.tornDown_cfg : s.tornDown.cfg = s.cfg := by simp [State.tornDown, State.stopAll]

@[simp] theorem State.tornDown_eotPhase : s.tornDown.eotPhase = s.eotPhase := by simp [State.tornDown, State.stopAll]

/-- CONSTRUCT builds an UNBUILT device, DEINIT tears a built one down, and no other step changes LIFE, CFG or the interrupt's
binding. -/
theorem Effect.life_cases (h : Effect s i t) :
    (∃ k cap buf index pins cb, i = .construct k cap buf index pins cb .soft ∧ s.life = .unbuilt ∧
      t = s.built (cfgOf cap buf index pins cb .soft)) ∨
    (∃ k, i = .deinit k ∧ s.Starts k ∧ s.life ≠ .unbuilt ∧ t = s.tornDown.endCommand k) ∨
    (t.life = s.life ∧ t.cfg = s.cfg ∧ t.irq.bound = s.irq.bound) := by
  cases h with
  | construct _ hlife hirq => subst hirq; exact .inl ⟨_, _, _, _, _, _, rfl, hlife, rfl⟩
  | deinit hk hlife => exact .inr (.inl ⟨_, rfl, hk, hlife, rfl⟩)
  | armStart _ ha | armPhase _ ha => exact .inr (.inr ⟨ha.frame.life, ha.frame.cfg, by rw [ha.frame.irq]⟩)
  | csdetEdge | wireCs =>
    refine .inr (.inr ⟨by simp, by simp, ?_⟩)
    obtain h | ⟨h, _⟩ := State.csEdge_irq_cases <;> rw [h]
  | _ => simp

/-- Every agent is inactive, no edge is pending and the handler is idle. -/
structure State.Off (s : State) : Prop where
  rx      : s.rx.active = false
  tx      : s.tx.active = false
  rde     : s.rde.active = false
  wre     : s.wre.active = false
  pending : s.irq.pending = false
  idle    : s.eotPhase = 0

/-- Without a data-out pin TX and WRE do not run, and WRE is not set up (10_state.md R20). -/
def State.NoDataOut (s : State) : Prop :=
  s.cfg.duplex = false → s.tx.active = false ∧ s.wre.active = false ∧ s.wre.cfg = false

/-- Past EOT.ACCOUNT there is an outcome (43_end_of_transfer.md R186). -/
def State.Counted (s : State) : Prop := 5 ≤ s.eotPhase.toNat → s.outcome.isSome = true

theorem LifeInv.off (hs : LifeInv s) (h : s.life ≠ .live) : s.Off :=
  ⟨hs.rxOff h, hs.txOff h, hs.rdeOff h, hs.wreOff h, hs.pending h, hs.idle h⟩

theorem LifeInv.noDataOut (hs : LifeInv s) : s.NoDataOut := fun h => ⟨hs.noTx h, hs.noWre h⟩

/-- A task that holds the scheduler has a command in progress, so the device is live. -/
theorem LifeInv.live_of_holder (hs : LifeInv s) (hhost : HostInv s) (h : s.holder = some k) : s.life = .live := by
  obtain hspin | ⟨c, p, hbusy⟩ := hhost.holder k h
  · exact hs.spin k hspin
  · exact hs.busy k c p hbusy

/-- The invariant from the conditions on the agents, the configuration and the scheduler. -/
theorem LifeInv.of_parts (hoff : s.life ≠ .live → s.Off) (hbound : s.irq.bound = decide (s.life = .live))
    (hout : s.NoDataOut) (hduplex : s.cfg.duplex = s.cfg.pins.miso.isSome) (hcb : s.cfg.hasCb = s.cfg.cb.isSome)
    (hsoft : s.cfg.irqMode = .soft) (hcounted : s.Counted) (hhost : HostInv s)
    (hholder : ∀ k, s.holder = some k → s.life = .live) : LifeInv s where
  rxOff h := (hoff h).rx
  txOff h := (hoff h).tx
  rdeOff h := (hoff h).rde
  wreOff h := (hoff h).wre
  bound := hbound
  pending h := (hoff h).pending
  idle h := (hoff h).idle
  noTx h := (hout h).1
  noWre h := (hout h).2
  duplex := hduplex
  hasCb := hcb
  soft := hsoft
  counted := hcounted
  busy k c p h := hholder k (hhost.busy k c p h).1
  spin k h := hholder k (hhost.spin k h)

/-- The state CONSTRUCT leaves. -/
theorem lifeInv_built {cap buf index pins cb} : LifeInv (s.built (cfgOf cap buf index pins cb .soft)) := by
  constructor <;> simp [State.built, cfgOf, State.task, Tab.get, RxRegs.built, TxRegs.built, RdeRegs.built, WreRegs.built]

/-- DEINIT stops every agent: those behind the data-out pin, where there is none, never ran. -/
theorem State.off_tornDown (hout : s.NoDataOut) (hidle : s.eotPhase = 0) : (s.tornDown.endCommand k).Off := by
  rcases hd : s.cfg.duplex
  · obtain ⟨htx, hwre, _⟩ := hout hd
    constructor <;> simp [State.tornDown, State.stopAll_eq, hd, hidle, htx, hwre]
  · constructor <;> simp [State.tornDown, State.stopAll_eq, hd, hidle]

theorem State.NoDataOut.tornDown (hs : s.NoDataOut) : (s.tornDown.endCommand k).NoDataOut := by
  intro hd
  have hd : s.cfg.duplex = false := by simpa using hd
  simpa [State.tornDown, State.stopAll_eq, hd] using hs hd

/-- The state DEINIT leaves. -/
theorem LifeInv.tornDown (hs : LifeInv s) (hidle : s.eotPhase = 0) (hhost : HostInv (s.tornDown.endCommand k)) :
    LifeInv (s.tornDown.endCommand k) :=
  .of_parts (fun _ => State.off_tornDown hs.noDataOut hidle) rfl hs.noDataOut.tornDown (by simpa using hs.duplex)
    (by simpa using hs.hasCb) (by simpa using hs.soft) (fun h => by simp [hidle] at h) hhost (by simp)

theorem ArmEffect.noDataOut (h : ArmEffect k c s p t) (hs : s.NoDataOut) : t.NoDataOut := by
  intro hd
  rw [h.frame.cfg] at hd
  obtain ⟨htx, hwre, hcfg⟩ := hs hd
  cases h with
  | a4 => rw [armA4_frame]; simp [armA4, hd, htx, hwre]
  | a5 => rw [armA5_eq]; simp [hd, htx, hwre, hcfg]
  | a6 => rw [armA6_eq]; simp [hd, htx, hwre, hcfg]
  | a7 => rw [armDone_frame]; simp [htx, hwre, hcfg]
  | error => simp [htx, hwre, hcfg]
  | a1 => simp [State.stopAll_eq, hd, htx, hwre, hcfg]
  | a2 => simp [armA2, htx, hwre, hcfg]
  | a3 => simp [armA3, htx, hwre, hcfg]

theorem Effect.noDataOut (h : Effect s i t) (hs : s.NoDataOut) : t.NoDataOut := by
  cases h with
  | construct => exact fun _ => ⟨rfl, rfl, rfl⟩
  | armStart _ ha => exact ha.noDataOut hs
  | armPhase _ ha => exact ha.noDataOut hs
  | deinit => exact hs.tornDown
  | wreXfer _ hd => exact fun h => absurd (hd.symm.trans h) (by simp)
  | txAwaitCsHigh hr | txAwaitCsLow hr | txLoad hr | txWaitRise hr | txWaitFall hr =>
    have ⟨_, _, hd⟩ := State.txReady_iff.mp hr
    intro h
    simp [hd] at h
  | wreConfig | wreActivate | wreDeactivate =>
    intro h
    have hd : s.cfg.duplex = false := by simpa using h
    simpa [State.configWre_wre, State.activateWre_wre, State.deactivateWre_wre, hd] using hs hd
  | @seqDeactivate q | @seqRestart q | @seqActivate q =>
    intro h
    have hd : s.cfg.duplex = false := by simpa using h
    cases q <;> simpa [State.deactivateSeq_tx_tx, State.restartSeq_tx_tx, State.activateSeq_tx_tx, hd] using hs hd
  | eotStopEngines =>
    intro h
    have hd : s.cfg.duplex = false := by simpa using h
    simpa [State.deactivateWre_wre, hd] using hs hd
  | eotStopSeq =>
    intro h
    have hd : s.cfg.duplex = false := by simpa using h
    simpa [State.deactivateSeq_tx_tx, hd] using hs hd
  | _ => simpa [State.NoDataOut] using hs

theorem ArmEffect.counted (h : ArmEffect k c s p t) (hidle : s.eotPhase = 0) : t.Counted :=
  fun h5 => by simp [h.frame.eotPhase, hidle] at h5

theorem Effect.counted (h : Effect s i t) (hs : s.Counted) : t.Counted := by
  cases h with
  | armStart hk ha | armPhase hk ha =>
    have ⟨_, hidle, _⟩ := hk
    exact ha.counted hidle
  | construct => intro h; simp [State.built] at h
  | deinit => simpa [State.Counted, State.stopAll] using hs
  | eotAccount => intro _; simp
  | eotStopSeq _ h | eotSignal _ h => intro _; simpa using hs (by simp [h])
  | eotEntry | eotStopEngines | eotPlaceholder | eotCheck | eotSpurious | eotCallback | eotLeave => intro h; simp at h
  | _ => simpa [State.Counted] using hs

theorem State.Off.congr (hs : s.Off) (hrx : t.rx = s.rx) (htx : t.tx = s.tx) (hrde : t.rde = s.rde) (hwre : t.wre = s.wre)
    (hirq : t.irq = s.irq) (hphase : t.eotPhase = s.eotPhase) : t.Off :=
  ⟨hrx ▸ hs.rx, htx ▸ hs.tx, hrde ▸ hs.rde, hwre ▸ hs.wre, hirq ▸ hs.pending, hphase.trans hs.idle⟩

theorem State.csEdge_irq_of_not_live {o n : Level} (h : s.life ≠ .live) : (s.csEdge o n).irq = s.irq := by
  obtain hirq | ⟨_, hlive⟩ := State.csEdge_irq_cases (s := s) (old := o) (new := n)
  · exact hirq
  · exact absurd hlive h

/-- A step on a device that is not live leaves it inactive, unless it is CONSTRUCT: the agents' steps, ARM and the handler need a
live device. -/
theorem Effect.off (h : Effect s i t) (hs : LifeInv s) (hlife : s.life ≠ .live) (ht : t.life ≠ .live) : t.Off := by
  have hoff := hs.off hlife
  cases h with
  | construct => exact absurd rfl ht
  | deinit => exact State.off_tornDown hs.noDataOut hoff.idle
  | armStart _ ha => cases ha <;> contradiction
  | armPhase hk =>
    have ⟨_, _, _, htask⟩ := hk
    exact absurd (hs.busy _ _ _ htask) hlife
  | csdetEdge | wireCs => apply hoff.congr <;> simp [State.csEdge_irq_of_not_live, hlife]
  | readSpin | readReturn | readIntoReturn | asReadIntoReturn | iterReturn | outcomePhase | memRead | sigWait | sigPoll
  | deferRun | wireSck | wireMosi | wireSample => apply hoff.congr <;> simp
  | _ => simp_all [State.rxReady_iff, State.txReady_iff]

/-- Only a live device gives the scheduler to a task: a command starts, is resumed or goes on there alone. -/
theorem Effect.live_of_holder (h : Effect s i t) (hs : LifeInv s) (hhost : HostInv s) (hk : t.holder = some k) :
    s.life = .live := by
  cases h with
  | construct => simp [State.built] at hk
  | armStart _ ha => cases ha <;> assumption
  | armPhase hc | outcomePhase hc =>
    have ⟨_, _, hholder, _⟩ := hc
    exact hs.live_of_holder hhost hholder
  | read | readInto | asReadInto | iterStep | sigResume => assumption
  | write | readError | readIntoError | iterError | outcomeRead | memRead | readReturn | readIntoReturn | asReadIntoReturn
  | iterReturn | deinit | sigWait => simp at hk
  | _ => exact hs.live_of_holder hhost (by simpa using hk)

theorem Effect.lifeInv (h : Effect s i t) (hs : LifeInv s) (hhost : HostInv s) (hwf : Tab.wf .idle s.tasks = true) :
    LifeInv t := by
  have hhost' := h.hostInv hhost hwf
  obtain ⟨k, cap, buf, index, pins, cb, _, _, rfl⟩ | ⟨k, _, hk, _, rfl⟩ | ⟨hlife, hcfg, hbound⟩ := h.life_cases
  · exact lifeInv_built
  · have ⟨_, hidle, _⟩ := hk
    exact hs.tornDown hidle hhost'
  · refine .of_parts (fun ht => h.off hs (hlife ▸ ht) ht) ?_ (h.noDataOut hs.noDataOut) ?_ ?_ ?_ (h.counted hs.counted) hhost'
      fun k hk => hlife.trans (h.live_of_holder hs hhost hk)
    · rw [hbound, hlife]; exact hs.bound
    · rw [hcfg]; exact hs.duplex
    · rw [hcfg]; exact hs.hasCb
    · rw [hcfg]; exact hs.soft

/-- Fetching an item and recording a fault touch nothing the invariant speaks of. -/
theorem LifeInv.of_fault_sched_draws {l : List Item} {n : Nat} {f : Option FaultCode} (hs : LifeInv s) :
    LifeInv { s with sched := l, draws := n, fault := f } :=
  ⟨hs.rxOff, hs.txOff, hs.rdeOff, hs.wreOff, hs.bound, hs.pending, hs.idle, hs.noTx, hs.noWre, hs.duplex, hs.hasCb, hs.soft,
    hs.counted, hs.busy, hs.spin⟩

end Sys2Proof.Machine
end

section
namespace Sys2Proof.Proofs

open Sys2Proof.Machine

/-- Settles O57: CONSTRUCT and DEINIT meet the invariant by what they build and stop, every other step field by field (44_facade.md
R210, R216, 70_reset_and_hazards.md R353). -/
theorem lifeInvKept : Obligations.LifeInvKept := fun _ _ hs hhost hwf h =>
  (step_keeps (P := fun s => LifeInv s ∧ HostInv s ∧ Tab.wf .idle s.tasks = true)
    (fun _ _ _ ⟨hs, hhost, hwf⟩ => ⟨hs.of_fault_sched_draws, hhost.congr rfl rfl rfl, hwf⟩)
    (fun _ _ ⟨hs, hhost, hwf⟩ => ⟨hs.of_fault_sched_draws, hhost.congr rfl rfl rfl, hwf⟩)
    (fun _ _ _ _ ⟨hs, hhost, hwf⟩ heffect =>
      ⟨heffect.lifeInv hs hhost hwf, heffect.hostInv hhost hwf, heffect.tasks_wf hwf⟩) ⟨hs, hhost, hwf⟩ h).1

end Sys2Proof.Proofs
end

section
/-! What a step does to PIN, LOG and OUTCOME, one inversion lemma per field. -/

namespace Sys2Proof.Machine

variable {s t : State} {i : Instr} {k : TaskId} {c : Command} {p : ArmPhase}

/-- Each input pin has its own step of the master, PIN.miso is driven by TX.WAIT_RISE and released by CONSTRUCT (10_state.md
R42). -/
theorem Effect.pins_cases (h : Effect s i t) :
    t.pins = s.pins ∨ (∃ v, i = .wireCs v ∧ t.pins = { s.pins with cs := v }) ∨
    (∃ v, i = .wireSck v ∧ t.pins = { s.pins with sck := v }) ∨
    (∃ v, i = .wireMosi v ∧ t.pins = { s.pins with mosi := v }) ∨
    (∃ b, i = .txWaitRise ∧ t.pins = { s.pins with miso := some b }) ∨
    ((∃ k c b x p cb q, i = .construct k c b x p cb q) ∧ t.pins = { s.pins with miso := none }) := by
  cases h with
  | construct => simp [State.built]
  | armStart _ ha | armPhase _ ha => exact .inl ha.frame.pins
  | deinit => simp [State.stopAll]
  | txWaitRise | wireCs | wireSck | wireMosi => simp
  | _ => exact .inl (by simp)

theorem ArmEffect.log_cases (h : ArmEffect k c s p t) : ∃ new, t.log = s.log ++ new := by
  cases h with
  | error => exact ⟨[.error k .noCallback], rfl⟩
  | a1 => exact ⟨[], by simp [State.stopAll]⟩
  | a2 => exact ⟨[], by simp [armA2]⟩
  | a3 => exact ⟨[], by simp [armA3]⟩
  | a4 => rw [armA4_frame]; exact ⟨[], by simp⟩
  | a5 => rw [armA5_eq]; exact ⟨[], by simp⟩
  | a6 => rw [armA6_eq]; exact ⟨[], by simp⟩
  | a7 => rw [armDone_frame]; exact ⟨[], by simp⟩

/-- LOG grows at its end, and CONSTRUCT begins it (10_state.md R46; log entry 15). -/
theorem Effect.log_cases (h : Effect s i t) :
    (∃ k c b x p cb q, i = .construct k c b x p cb q) ∨ ∃ new, t.log = s.log ++ new := by
  cases h with
  | construct => exact .inl ⟨_, _, _, _, _, _, _, rfl⟩
  | armStart _ ha | armPhase _ ha => exact .inr ha.log_cases
  | deinit => exact .inr ⟨[], by simp [State.stopAll]⟩
  | readError | readReturn | readIntoError | asReadIntoReturn | iterError | iterReturn | outcomeRead | memRead | txWaitRise
  | rdeXfer | eotSpurious => exact .inr ⟨_, rfl⟩
  | @deferRun n => exact .inr ⟨[.callback n], by simp⟩
  | _ => exact .inr ⟨[], by simp⟩

theorem ArmEffect.outcome_cases (h : ArmEffect k c s p t) : t.outcome = s.outcome ∨ t.outcome = none := by
  cases h with
  | error => exact .inl rfl
  | a1 => exact .inl (by simp [State.stopAll])
  | a2 => exact .inr rfl
  | a3 => exact .inl rfl
  | a4 => rw [armA4_frame]; exact .inl rfl
  | a5 => rw [armA5_eq]; exact .inl rfl
  | a6 => rw [armA6_eq]; exact .inl rfl
  | a7 => rw [armDone_frame]; exact .inl (by simp)

/-- OUTCOME gets its value from EOT.ACCOUNT and is cleared by ARM and CONSTRUCT (10_state.md R35, 43_end_of_transfer.md R192). -/
theorem Effect.outcome_cases (h : Effect s i t) :
    t.outcome = s.outcome ∨ (i = .eotAccount ∧ t.outcome ≠ none) ∨
    (t.outcome = none ∧ ((∃ k d b m, i = .arm k d b m) ∨ ∃ k c b x p cb q, i = .construct k c b x p cb q)) := by
  cases h with
  | construct => exact .inr (.inr ⟨rfl, .inr ⟨_, _, _, _, _, _, _, rfl⟩⟩)
  | armStart _ ha | armPhase _ ha => exact ha.outcome_cases.imp_right fun h => .inr ⟨h, .inl ⟨_, _, _, _, rfl⟩⟩
  | eotAccount => exact .inr (.inl ⟨rfl, by simp⟩)
  | deinit => exact .inl (by simp [State.stopAll])
  | _ => exact .inl (by simp)

end Sys2Proof.Machine
end

section
namespace Sys2Proof.Proofs

open Sys2Proof.Machine

/-- Settles O6: every effect needs FAULT to be NONE, and so does recording one (10_state.md R45, R52). -/
theorem faultStopsEveryAgent : Obligations.FaultStopsEveryAgent := by
  refine ⟨fun i s hfault => ?_, fun _ _ => rfl⟩
  obtain hhold | ⟨_, hnone, _⟩ | ⟨_, _, heffect⟩ := exec_stepsTo i s
  · exact hhold
  · exact absurd hnone hfault
  · exact absurd heffect.fault_eq_none hfault

/-- Settles O22, from the writers of PIN (10_state.md R42, 41_output_shifter.md R137). -/
theorem pinsHaveOneWriterEach : Obligations.PinsHaveOneWriterEach := by
  intro i s t h
  obtain rfl | ⟨_, _, rfl⟩ | heffect := exec_effect h
  · simp
  · simp
  · obtain hpins | ⟨v, rfl, hpins⟩ | ⟨v, rfl, hpins⟩ | ⟨v, rfl, hpins⟩ | ⟨b, rfl, hpins⟩ | ⟨hi, hpins⟩ :=
      heffect.pins_cases <;> simp [hpins]
    exact fun _ => hi

/-- Settles O60, from what each step does to LIFE and CFG, LOG and OUTCOME (10_state.md R35, R43, R44, R46, R49). -/
theorem whatOnlySomeStepsChange : Obligations.WhatOnlySomeStepsChange := by
  intro i s t h
  obtain rfl | ⟨_, _, rfl⟩ | heffect := exec_effect h
  · simp
  · simp
  · refine ⟨heffect.params_eq, fun hcfg => ?_, fun hlife => ?_, fun hi => ?_, fun hout => ?_⟩
    · obtain ⟨k, cap, buf, index, pins, cb, hi, _⟩ | ⟨k, _, _, _, rfl⟩ | ⟨_, hsame, _⟩ := heffect.life_cases
      · exact ⟨k, cap, buf, index, pins, cb, .soft, hi⟩
      · exact absurd (by simp) hcfg
      · exact absurd hsame hcfg
    · obtain ⟨k, cap, buf, index, pins, cb, hi, hunbuilt, rfl⟩ | ⟨k, hi, _, hbuilt, rfl⟩ | ⟨hsame, _⟩ := heffect.life_cases
      · exact .inl ⟨hunbuilt, rfl, k, cap, buf, index, pins, cb, .soft, hi⟩
      · have hlive : s.life = .live := by
          rcases hl : s.life
          · exact absurd hl hbuilt
          · rfl
          · exact absurd hl.symm hlife
        exact .inr ⟨hlive, rfl, k, hi⟩
      · exact absurd hsame hlife
    · obtain ⟨k, c, b, x, p, cb, q, hc⟩ | hnew := heffect.log_cases
      · exact absurd hc (hi k c b x p cb q)
      · exact hnew
    · exact heffect.outcome_cases.resolve_left hout

/-- Settles O5: `step` fetches, decodes and takes the item (10_state.md R50, 00_scope.md R9). -/
theorem stepTakesScheduledItem : Obligations.StepTakesScheduledItem := by
  refine ⟨fun s it rest i hfault hsched hdecode => ?_, fun s hfault hsched => ?_, fun s it rest hfault hsched hdecode => ?_,
    fun s c hfault => by simp [step, hfault]⟩
  · have hstep : step s = takeStep i { s with sched := rest } := by simp [step, fetch, hfault, hsched, hdecode]
    rw [hstep]
    exact ⟨fun hp => takeStep_of_not_part hp, fun hp => by simp [takeStep, hp, hold]⟩
  · simp [step, fetch, hfault, hsched]
  · simp [step, fetch, hfault, hsched, hdecode]

end Sys2Proof.Proofs
end

section
/-! The interleaving restrictions of 10_state.md R50: which conditions make a step hold, whatever else the state is. -/

namespace Sys2Proof.Machine

variable {s : State} {i j : Instr} {k : TaskId} {script : List Instr}

theorem startChecked_of_not_mayStart {o : Out} (h : s.mayStart k = false) : startChecked k s o = .next s := by
  simp [startChecked, h, hold]

theorem liveAndSound_of_not_live (h : s.life ≠ .live) : s.liveAndSound = false := by simp [State.liveAndSound, h]

theorem rxStep_of_not_live {enabled : Bool} {t : State} (h : s.life ≠ .live) : rxStep s enabled t = .next s := by
  simp [rxStep, State.rxReady, liveAndSound_of_not_live h, hold]

theorem txStep_of_not_live {enabled : Bool} {t : State} (h : s.life ≠ .live) : txStep s enabled t = .next s := by
  simp [txStep, State.txReady, liveAndSound_of_not_live h, hold]

theorem primStep_of_not_live {enabled : Bool} {t : State} (h : s.life ≠ .live) : primStep s enabled t = .next s := by
  simp [primStep, liveAndSound_of_not_live h, hold]

theorem eotStep_of_not_live {enabled : Bool} {o : Out} (h : s.life ≠ .live) : eotStep s enabled o = .next s := by
  simp [eotStep, liveAndSound_of_not_live h, hold]

/-- While the device is not live no agent of its own steps (R50(d)). -/
theorem exec_device_of_not_live (hlife : s.life ≠ .live)
    (hi : i.agent = .rx ∨ i.agent = .tx ∨ i.agent = .rde ∨ i.agent = .wre ∨ i.agent = .eot) : exec i s = .next s := by
  cases i with
  | rxByteDone => simp only [exec, execRxByteDone, rxStep_of_not_live hlife, ite_self]
  | rxAwaitBudget | rxAwaitCsHigh | rxAwaitCsLow | rxWaitRise | rxWaitFall | rxOverrunWatch | rxReport | rxEnd =>
    exact rxStep_of_not_live hlife
  | txAwaitCsHigh | txAwaitCsLow | txLoad | txWaitRise | txWaitFall => exact txStep_of_not_live hlife
  | rdeXfer => simp [exec, execRdeXfer, State.rdeMayCopy, liveAndSound_of_not_live hlife, hold]
  | wreXfer => simp [exec, execWreXfer, State.wreMayFeed, liveAndSound_of_not_live hlife, hold]
  | rdeConfig | rdeActivate | rdeDeactivate | wreConfig | wreActivate | wreDeactivate => exact primStep_of_not_live hlife
  | csdetEdge => simp [exec, execCsdetEdge, State.csEdge, hlife]
  | eotEntry | eotStopEngines | eotPlaceholder | eotCheck | eotAccount | eotStopSeq | eotSignal | eotCallback =>
    exact eotStep_of_not_live hlife
  | _ => simp [Instr.agent] at hi

/-- A step of task k, but for its resumption, holds where k may neither start a command nor go on with one (44_facade.md R205). -/
theorem exec_task_of_not_may (hk : i.task? = some k) (hresume : i ≠ .sigResume k)
    (hstart : i.agent = .host → s.mayStart k = false) (hcontinue : s.mayContinue k = false) : exec i s = .next s := by
  cases i with
  | construct | deinit | memRead =>
    cases hk
    simp [exec, execConstruct, execDeinit, execMemRead, hstart rfl, hold]
  | write => cases hk; exact startChecked_of_not_mayStart (hstart rfl)
  | arm => cases hk; simp [exec, execArm, hstart rfl, hcontinue, hold]
  | read | readInto | asReadInto | iterStep | outcomeRead =>
    cases hk
    simp [exec, execRead, execReadInto, execAsReadInto, execIterStep, execOutcomeRead, hcontinue,
      startChecked_of_not_mayStart (hstart rfl)]
  | sigWait | sigPoll => cases hk; simp [exec, execSigWait, execSigPoll, hcontinue, hold]
  | sigResume => cases hk; exact absurd rfl hresume
  | _ => cases hk

/-- A step of host context is the deferred callback, the waiter's resumption, or a task's own. -/
theorem hostContext_cases (hi : i.hostContext = true) :
    i = .deferRun ∨ (∃ k, i = .sigResume k) ∨ ∃ k, i.task? = some k ∧ i ≠ .sigResume k := by
  cases i <;> simp_all [Instr.hostContext, Instr.task?]

theorem exec_sigResume_of_not_free (h : s.hostReady = false ∨ s.holder ≠ none) : exec (.sigResume k) s = .next s := by
  obtain h | h := h <;> simp [exec, execSigResume, h, hold]

theorem exec_deferRun_of_not_free (h : s.hostReady = false ∨ s.holder ≠ none) : exec .deferRun s = .next s := by
  obtain h | h := h <;> simp [exec, execDeferRun, h, hold]

/-- A step of host context holds where the scheduler is not free and the step's task may neither start a command nor go on with
one (R50(a), (b)). -/
theorem exec_hostContext_of_not_may (hi : i.hostContext = true) (hfree : s.hostReady = false ∨ s.holder ≠ none)
    (hmay : ∀ k, i.task? = some k → s.mayStart k = false ∧ s.mayContinue k = false) : exec i s = .next s := by
  obtain rfl | ⟨k, rfl⟩ | ⟨k, hk, hresume⟩ := hostContext_cases hi
  · exact exec_deferRun_of_not_free hfree
  · exact exec_sigResume_of_not_free hfree
  · obtain ⟨hstart, hcontinue⟩ := hmay k hk
    exact exec_task_of_not_may hk hresume (fun _ => hstart) hcontinue

/-! PRIO (70_reset_and_hazards.md R343) -/

theorem mem_hardwareSteps_or_handlerSteps (hpart : i.isPart = false) (hmaster : i.agent ≠ .master) :
    i ∈ hardwareSteps ∨ i ∈ handlerSteps ∨ i.hostContext = true := by
  cases i <;> simp_all [Instr.isPart, Instr.agent, Instr.hostContext, hardwareSteps, handlerSteps]

/-- PRIO's condition on a step of the master. -/
theorem prio_master (hi : i.agent = .master) (h : prio i script s = true) :
    allHeld hardwareSteps s = true ∧ allHeld handlerSteps s = true ∧ hostHeld script s = true := by
  cases i with
  | wireCs | wireSck | wireMosi | wireSample =>
    simpa [prio, hardwareSteps, handlerSteps, Instr.hostContext, Instr.agent, and_assoc] using h
  | _ => simp [Instr.agent] at hi

theorem mayStart_of_not_commandEnabled (h : commandEnabled script s = false) (hi : i ∈ script) (hk : i.task? = some k)
    (hhost : i.agent = .host) : s.mayStart k = false := by
  simpa [hhost, hk] using List.any_eq_false.mp h i hi

/-- The next phase of a command in progress is one of the pending steps, whatever operands its item carries. -/
theorem exec_eq_pending (hk : i.task? = some k) (hresume : i ≠ .sigResume k) (hcontinue : s.mayContinue k = true) :
    exec i s = .next s ∨ ∃ j ∈ pendingHostSteps s, j.isPart = false ∧ exec i s = exec j s := by
  have ⟨_, _, hholder⟩ := State.mayContinue_iff.mp hcontinue
  have hstart : s.mayStart k = false := by simp [State.mayStart, hholder]
  have hpending : ∀ j ∈ [Instr.arm k 0 0 .blocking, .read k, .readInto k 0 0, .asReadInto k 0 0, .iterStep k, .outcomeRead k,
      .sigWait k, .sigPoll k], j ∈ pendingHostSteps s := by
    intro j hj
    simp only [pendingHostSteps, hholder, Option.toList_some, List.flatMap_singleton, List.mem_append]
    exact .inr hj
  cases i with
  | construct | write | deinit | memRead =>
    cases hk
    exact .inl (by simp [exec, execConstruct, execWrite, startChecked, execDeinit, execMemRead, hstart, hold])
  | arm => cases hk; exact .inr ⟨.arm k 0 0 .blocking, hpending _ (by simp), rfl, by simp [exec, execArm, hstart, hcontinue]⟩
  | readInto => cases hk; exact .inr ⟨.readInto k 0 0, hpending _ (by simp), rfl, by simp [exec, execReadInto, hcontinue]⟩
  | asReadInto => cases hk; exact .inr ⟨.asReadInto k 0 0, hpending _ (by simp), rfl, by simp [exec, execAsReadInto, hcontinue]⟩
  | read | iterStep | outcomeRead | sigWait | sigPoll => cases hk; exact .inr ⟨_, hpending _ (by simp), rfl, rfl⟩
  | sigResume => cases hk; exact absurd rfl hresume
  | _ => cases hk

/-- Where no step of host context is pending and no command may start, no step of host context in the script has an effect. -/
theorem takeStep_of_hostHeld (h : hostHeld script s = true) (hi : i ∈ script) (hctx : i.hostContext = true) :
    takeStep i s = .next s := by
  simp only [hostHeld, Bool.and_eq_true, Bool.not_eq_true'] at h
  obtain ⟨hpending, hcommand⟩ := h
  obtain rfl | ⟨k, rfl⟩ | ⟨k, hk, hresume⟩ := hostContext_cases hctx
  · exact takeStep_of_allHeld hpending (by simp [pendingHostSteps])
  · by_cases hwaiter : s.sig.waiter = some k
    · exact takeStep_of_allHeld hpending (by simp [pendingHostSteps, hwaiter])
    · simp [takeStep, Instr.isPart, exec, execSigResume, hwaiter, hold]
  · unfold takeStep
    split
    · rfl
    · rcases hcontinue : s.mayContinue k
      · exact exec_task_of_not_may hk hresume (mayStart_of_not_commandEnabled hcommand hi hk) hcontinue
      · obtain hhold | ⟨j, hj, hpart, hexec⟩ := exec_eq_pending hk hresume hcontinue
        · exact hhold
        · rw [hexec, ← takeStep_of_not_part hpart]
          exact takeStep_of_allHeld hpending hj

/-- Under PRIO the master steps last: no step still to come of another agent has an effect where it steps. -/
theorem takeStep_of_prio_master (hi : i.agent = .master) (h : prio i script s = true) (hj : j ∈ script)
    (hmaster : j.agent ≠ .master) : takeStep j s = .next s := by
  obtain ⟨hhardware, hhandler, hhost⟩ := prio_master hi h
  rcases hpart : j.isPart
  · obtain hmem | hmem | hctx := mem_hardwareSteps_or_handlerSteps hpart hmaster
    · exact takeStep_of_allHeld hhardware hmem
    · exact takeStep_of_allHeld hhandler hmem
    · exact takeStep_of_hostHeld hhost hj hctx
  · simp [takeStep, hpart, hold]

end Sys2Proof.Machine
end

section
namespace Sys2Proof.Proofs

open Sys2Proof.Machine

/-- Settles O48: a step of host context needs the handler idle and the scheduler its own, a device's step a live device (10_state.md
R50), and PRIO's condition on the master covers every step of another agent (70_reset_and_hazards.md R343). -/
theorem interleavingRestrictions : Obligations.InterleavingRestrictions := by
  refine ⟨fun i s hi hphase => ?_, fun i s t hi hholder hother => ?_, fun i s hi hlife => exec_device_of_not_live hlife hi,
    fun i j script s hi h hj hmaster => takeStep_of_prio_master hi h hj hmaster⟩
  · have hready : s.hostReady = false :=
      Bool.eq_false_iff.mpr fun h => hphase (State.hostReady_iff.mp h).2
    exact exec_hostContext_of_not_may hi (.inl hready) fun k _ =>
      ⟨by simp [State.mayStart, hready], by simp [State.mayContinue, hready]⟩
  · refine exec_hostContext_of_not_may hi (.inr (by simp [hholder])) fun k hk => ?_
    have hne : t ≠ k := fun h => hother (h ▸ hk)
    exact ⟨by simp [State.mayStart, hholder], by simp [State.mayContinue, hholder, hne]⟩

end Sys2Proof.Proofs
end

section
/-! Host memory (20_memory.md): the one step that writes it, and what a host's read in a race depends on. -/

namespace Sys2Proof.Machine

variable {s t : State} {i : Instr} {k : TaskId} {a : Addr} {b : Word}

/-- A step leaves memory as it was, or it is RDE.XFER with bytes left to copy, which writes one byte at RDE's address
(42_copy_engines.md R151). -/
theorem Effect.mem_eq_or_rdeXfer (h : Effect s i t) :
    t.mem = s.mem ∨
      (i = .rdeXfer ∧ s.rde.active = true ∧ s.rde.idx.toNat < s.rde.count.toNat ∧
        t.mem = (s.memWrite (rdeAddr s.rde) (wordByte (s.headWord .rxout))).mem) := by
  cases h with
  | rdeXfer _ hactive hleft => exact .inr ⟨rfl, hactive, hleft, rfl⟩
  | armStart _ harm => exact .inl harm.frame.mem
  | armPhase _ harm => exact .inl harm.frame.mem
  | construct => exact .inl rfl
  | deinit => simp [State.stopAll]
  | _ => simp

theorem State.memRead_congr (h : t.mem = s.mem) (a : Addr) : t.memRead a = s.memRead a := by
  rw [State.memRead, State.memRead, h]

/-- A write changes what an address reads as only at its own address. -/
theorem State.eq_of_memRead_memWrite_ne {a' : Addr} {x : Byte} (hwf : s.mem.wf = true)
    (h : (s.memWrite a x).memRead a' ≠ s.memRead a') : a' = a := by
  by_contra hne
  exact h (by rw [State.memRead_memWrite hwf, if_neg hne])

/-- The receive region races while the window is open (20_memory.md R69). -/
theorem State.raced_of_inside (hwindow : s.window ≠ none) (hb : s.xfer.b = some b) (hin : (a - s.xfer.dst).toNat < b.toNat) :
    s.raced a = true := by
  have hregion : inRegion s.xfer.dst b a = true := decide_eq_true hin
  simp [State.raced, Option.isSome_iff_ne_none, hwindow, hb, hregion]

/-- MEM_READ in a race: a hold, or a return of the next free value, which no byte of memory enters (44_facade.md R218). -/
theorem exec_memRead_of_raced (h : s.raced a = true) :
    exec (.memRead k a) s =
      if s.mayStart k then .next ({ s with draws := s.draws + 1 }.returnValue k (.byte (Config.freeByte s.draws)))
      else .next s := by
  simp only [exec, execMemRead, State.hostRead_of_raced h, hold]

/-- Whatever memory holds, MEM_READ in a race has one effect. -/
theorem exec_memRead_of_raced_of_mem (h : s.raced a = true) (hs : exec (.memRead k a) s = .next t) (m : Memory) :
    exec (.memRead k a) { s with mem := m } = .next { t with mem := m } := by
  have hm : ({ s with mem := m } : State).raced a = true := h
  have hmay : ({ s with mem := m } : State).mayStart k = s.mayStart k := rfl
  rw [exec_memRead_of_raced h] at hs
  rw [exec_memRead_of_raced hm, hmay]
  split at hs <;> injection hs with hs <;> subst hs
  · rw [if_pos ‹_›]; rfl
  · rw [if_neg ‹_›]

end Sys2Proof.Machine
end

section
namespace Sys2Proof.Proofs

open Sys2Proof.Machine

/-- Settles O28: RDE.XFER is the one effect that writes memory, at `RDE.dst + RDE.idx` alone (42_copy_engines.md R151). -/
theorem onlyRdeWritesMemory : Obligations.OnlyRdeWritesMemory := by
  intro i s t a hwf hexec hchange
  obtain rfl | ⟨_, _, rfl⟩ | heffect := exec_effect hexec
  · exact absurd rfl hchange
  · exact absurd rfl hchange
  · obtain hmem | ⟨hi, hactive, hleft, hmem⟩ := heffect.mem_eq_or_rdeXfer <;> rw [State.memRead_congr hmem] at hchange
    · exact absurd rfl hchange
    · exact ⟨hi, State.eq_of_memRead_memWrite_ne hwf hchange, hactive, hleft⟩

/-- Settles O46: in a race the byte is a free value, so the two runs differ in memory alone (20_memory.md R69, log entry 13). -/
theorem racedReadTellsNothing : Obligations.RacedReadTellsNothing := by
  intro s u u' m t a b hwindow hb hin hu hu'
  have hsame := exec_memRead_of_raced_of_mem (State.raced_of_inside hwindow hb hin) hu m
  rw [hsame] at hu'
  injection hu' with hu'
  rw [← hu']

end Sys2Proof.Proofs
end

section
/-! The encoding (30_encoding.md R80 to R99): what the operands of each type are, what the encoder writes, and what the decoder
reads. Every code that is not reserved is the code of a step (`exists_encode_code`), so a statement about decoding an item is
proved by cases on that step. -/

namespace Sys2Proof

variable {i j : Instr} {t : TaskId} {o : Operand} {ops : List Operand} {it : Item}

/-! An operand is of a type where the decoder reads a value of that type from it (R97) -/

@[simp] theorem fits_count_iff : o.fits .count = true ↔ ∃ n, o = .nat n := by cases o <;> simp [Operand.fits]

@[simp] theorem fits_address_iff : o.fits .address = true ↔ ∃ n, o = .nat n := by cases o <;> simp [Operand.fits]

@[simp] theorem fits_word_iff : o.fits .word = true ↔ ∃ n w, o = .nat n ∧ wordOf n = some w := by
  cases o <;> simp [Operand.fits, wordOf]

@[simp] theorem fits_level_iff : o.fits .level = true ↔ ∃ n v, o = .nat n ∧ levelOf n = some v := by
  cases o with
  | nat n => rcases n with _ | _ | n <;> simp [Operand.fits, levelOf]
  | _ => simp [Operand.fits]

@[simp] theorem fits_mode_iff : o.fits .mode = true ↔ ∃ n m, o = .nat n ∧ modeOf n = some m := by
  cases o with
  | nat n => rcases n with _ | _ | _ | n <;> simp [Operand.fits, modeOf]
  | _ => simp [Operand.fits]

@[simp] theorem fits_signed_iff : o.fits .signed = true ↔ ∃ z, o = .int z := by cases o <;> simp [Operand.fits]

@[simp] theorem fits_countOrNone_iff : o.fits .countOrNone = true ↔ ∃ n, natOrNone o = some n := by
  cases o <;> simp [Operand.fits, natOrNone]

@[simp] theorem fits_sequencer_iff : o.fits .sequencer = true ↔ ∃ q, o = .seqr q := by cases o <;> simp [Operand.fits]

@[simp] theorem fits_channel_iff : o.fits .channel = true ↔ ∃ c, o = .chan c := by cases o <;> simp [Operand.fits]

@[simp] theorem fits_byteString_iff : o.fits .byteString = true ↔ ∃ bs, o = .bytes bs := by cases o <;> simp [Operand.fits]

@[simp] theorem fits_pinIds_iff : o.fits .pinIds = true ↔ ∃ p, o = .pins p := by cases o <;> simp [Operand.fits]

@[simp] theorem fits_irqMode_iff : o.fits .irqMode = true ↔ ∃ m, o = .irq m := by cases o <;> simp [Operand.fits]

@[simp] theorem operandsFit_nil_iff : operandsFit [] ops = true ↔ ops = [] := by cases ops <;> simp [operandsFit]

@[simp] theorem operandsFit_cons_iff {k : OperandType} {ks : List OperandType} :
    operandsFit (k :: ks) ops = true ↔ ∃ o os, o.fits k = true ∧ operandsFit ks os = true ∧ ops = o :: os := by
  cases ops <;> simp [operandsFit]

theorem Item.wf_iff :
    it.wf = true ↔ operandsFit (operandTypes it.code.toNat) it.operands = true ∨
      it.code = 0x03 ∧ operandsFit [.address, .count] it.operands = true := by
  simp only [Item.wf, Bool.or_eq_true, Bool.and_eq_true, beq_iff_eq]

/-! What the encoder writes -/

theorem encode_wf (i : Instr) : (encode i).wf = true := by
  rw [Item.wf_iff]
  cases i <;> simp [encode, operandTypes]

theorem reservedCode_encode (i : Instr) : reservedCode (encode i).code = false := by cases i <;> rfl

/-- Every code that is not reserved is the code of a step (R90). -/
theorem exists_encode_code {c : Byte} (h : reservedCode c = false) : ∃ i, (encode i).code = c := by
  have hall : ∀ c : Byte, reservedCode c = false → (decodeTableWord 8 c.toNat).map (fun i => (encode i).code) = some c := by
    decide
  obtain ⟨i, _, hi⟩ := Option.map_eq_some_iff.mp (hall c h)
  exact ⟨i, hi⟩

/-! What the decoder reads -/

theorem bare_eq_some_iff : bare j ops = some i ↔ ops = [] ∧ j = i := by cases ops <;> simp [bare]

theorem decode_eq_ok_iff :
    decode it = .ok i ↔ reservedCode it.code = false ∧
      decodeFields it.task (it.code.toNat / 16) (it.code.toNat % 16) it.operands = some i := by
  unfold decode
  split
  · simp [*]
  · split <;> simp_all

theorem decode_eq_reserved_iff : decode it = .error (.reservedStep it.code) ↔ reservedCode it.code = true := by
  unfold decode
  split
  · simp [*]
  · split <;> simp_all

/-- The fields of the encoder's item give the step back: each operand is read as the value it was written from. -/
theorem decodeFields_encode (i : Instr) :
    decodeFields (encode i).task ((encode i).code.toNat / 16) ((encode i).code.toNat % 16) (encode i).operands = some i := by
  cases i with
  | construct | arm | write | readInto | asReadInto | memRead => simp [encode, decodeFields, decodeHost]
  | rdeConfig => simp [encode, decodeFields, decodeRde]
  | wreConfig => simp [encode, decodeFields, decodeWre]
  | chPut => simp [encode, decodeFields, decodeCtrl]
  | csdetEdge => simp [encode, decodeFields, decodeEot]
  | wireCs | wireSck | wireMosi => simp [encode, decodeFields, decodeMaster]
  | _ => simp only [encode]; rfl

/-- A well-formed item with the code of a step decodes. -/
theorem exists_decodeFields_of_wf (h : Item.wf ⟨t, (encode i).code, ops⟩ = true) :
    ∃ j, decodeFields t ((encode i).code.toNat / 16) ((encode i).code.toNat % 16) ops = some j := by
  rw [Item.wf_iff] at h
  cases i <;> simp only [encode] at h ⊢
  case construct =>
    have h : ∃ o, (∃ cap, natOrNone o = some cap) ∧ ∃ buf index p o', (∃ cb, natOrNone o' = some cb) ∧
        ∃ m, ops = [o, .nat buf, .nat index, .pins p, o', .irq m] := by simpa [operandTypes] using h
    obtain ⟨_, ⟨cap, hcap⟩, buf, index, p, _, ⟨cb, hcb⟩, m, rfl⟩ := h
    exact ⟨.construct t cap (addrOf buf) index p cb m, by simp [decodeFields, decodeHost, hcap, hcb]⟩
  case arm =>
    obtain ⟨dst, b, m, ⟨⟨w, hb⟩, k, hm⟩, rfl⟩ : ∃ dst b m, ((∃ w, wordOf b = some w) ∧ ∃ k, modeOf m = some k) ∧
        ops = [.nat dst, .nat b, .nat m] := by simpa [operandTypes] using h
    exact ⟨.arm t (addrOf dst) w k, by simp [decodeFields, decodeHost, hb, hm]⟩
  case write =>
    obtain ⟨_, _, _, rfl⟩ | ⟨_, _, rfl⟩ : (∃ src len z, ops = [.nat src, .nat len, .int z]) ∨
      ∃ src len, ops = [.nat src, .nat len] := by simpa [operandTypes] using h
    · exact ⟨_, rfl⟩
    · exact ⟨_, rfl⟩
  case readInto | asReadInto =>
    obtain ⟨dst, len, rfl⟩ : ∃ dst len, ops = [.nat dst, .nat len] := by simpa [operandTypes] using h
    exact ⟨_, rfl⟩
  case rdeConfig =>
    obtain ⟨_, _, ⟨w, hw⟩, rfl⟩ : ∃ dst k, (∃ w, wordOf k = some w) ∧ ops = [.nat dst, .nat k] := by
      simpa [operandTypes] using h
    exact ⟨_, congrArg (Option.map _) hw⟩
  case wreConfig =>
    obtain ⟨_, _, ⟨w, hw⟩, rfl⟩ : ∃ bs k, (∃ w, wordOf k = some w) ∧ ops = [.bytes bs, .nat k] := by
      simpa [operandTypes] using h
    exact ⟨_, congrArg (Option.map _) hw⟩
  case chPut =>
    obtain ⟨_, _, ⟨w, hw⟩, rfl⟩ : ∃ c k, (∃ w, wordOf k = some w) ∧ ops = [.chan c, .nat k] := by
      simpa [operandTypes] using h
    exact ⟨_, congrArg (Option.map _) hw⟩
  case memRead =>
    obtain ⟨addr, rfl⟩ : ∃ addr, ops = [.nat addr] := by simpa [operandTypes] using h
    exact ⟨_, rfl⟩
  case seqDeactivate | seqRestart | seqActivate =>
    obtain ⟨q, rfl⟩ : ∃ q, ops = [.seqr q] := by simpa [operandTypes] using h
    exact ⟨_, rfl⟩
  case chFlush | chGet | chEmpty =>
    obtain ⟨c, rfl⟩ : ∃ c, ops = [.chan c] := by simpa [operandTypes] using h
    exact ⟨_, rfl⟩
  case csdetEdge =>
    obtain ⟨_, _, o, n, ho, hn, rfl⟩ : ∃ k k' o n, levelOf k = some o ∧ levelOf k' = some n ∧ ops = [.nat k, .nat k'] := by
      simpa [operandTypes] using h
    exact ⟨.csdetEdge o n, by simp [decodeFields, decodeEot, ho, hn]⟩
  case wireCs | wireSck | wireMosi =>
    obtain ⟨_, v, hv, rfl⟩ : ∃ k v, levelOf k = some v ∧ ops = [.nat k] := by simpa [operandTypes] using h
    exact ⟨_, congrArg (Option.map _) hv⟩
  all_goals
    obtain rfl : ops = [] := by simpa [operandTypes] using h
    exact ⟨_, rfl⟩

/-- What decodes under the code of a step has that step's operands, and is a step of the same code. -/
theorem wf_of_decodeFields
    (h : decodeFields t ((encode i).code.toNat / 16) ((encode i).code.toNat % 16) ops = some j) :
    Item.wf ⟨t, (encode i).code, ops⟩ = true ∧ (encode j).code = (encode i).code := by
  rw [Item.wf_iff]
  cases i <;> simp only [encode, BitVec.reduceToNat, Nat.reduceDiv, Nat.reduceMod, decodeFields] at h
  case construct | arm | csdetEdge =>
    simp only [decodeHost, decodeEot] at h
    split at h
    · split at h <;> cases h
      simp [encode, operandTypes, *]
    · cases h
  case write =>
    simp only [decodeHost] at h
    split at h <;> cases h <;> simp [encode, operandTypes]
  case readInto | asReadInto | memRead | seqDeactivate | seqRestart | seqActivate | chFlush | chGet | chEmpty =>
    simp only [decodeHost, decodeCtrl] at h
    split at h <;> cases h
    simp [encode, operandTypes]
  case rdeConfig | wreConfig | chPut | wireCs | wireSck | wireMosi =>
    simp only [decodeRde, decodeWre, decodeCtrl, decodeMaster] at h
    split at h
    · obtain ⟨v, hv, rfl⟩ := Option.map_eq_some_iff.mp h
      simp [encode, operandTypes, hv]
    · cases h
  all_goals
    obtain ⟨rfl, rfl⟩ := bare_eq_some_iff.mp h
    exact ⟨.inl rfl, rfl⟩

end Sys2Proof
end

section
namespace Sys2Proof.Proofs

open Sys2Proof.Machine

/-- Settles O1: every operand is read as the value it was written from (30_encoding.md R80, R97). -/
theorem decodeOfEncode : Obligations.DecodeOfEncode := fun i =>
  ⟨encode_wf i, decode_eq_ok_iff.mpr ⟨reservedCode_encode i, decodeFields_encode i⟩⟩

/-- Settles O2: a code that is not reserved is some step's, and what decodes under it is decided by that step's operands
(30_encoding.md R80, R97, R99). -/
theorem decodedStepHasItsCode : Obligations.DecodedStepHasItsCode := by
  simp only [Obligations.DecodedStepHasItsCode, decode_eq_ok_iff]
  refine ⟨fun ⟨t, c, ops⟩ => ⟨fun ⟨j, hc, hj⟩ => ⟨hc, ?_⟩, fun ⟨hc, hwf⟩ => ?_⟩, fun ⟨t, c, ops⟩ j ⟨hc, hj⟩ => ?_⟩ <;>
    obtain ⟨i, rfl⟩ := exists_encode_code hc
  · exact (wf_of_decodeFields hj).1
  · obtain ⟨j, hj⟩ := exists_decodeFields_of_wf hwf
    exact ⟨j, hc, hj⟩
  · exact (wf_of_decodeFields hj).2

/-- Settles O3, from R90's list as the decoder has it (30_encoding.md R90, 60_exceptions.md R312). -/
theorem reservedCodesNameNoStep : Obligations.ReservedCodesNameNoStep := by
  refine ⟨fun it => ?_, fun s it rest hfault hsched hdecode => ?_, rfl⟩
  · rw [decode_eq_reserved_iff]
    simp [reservedCode, or_assoc]
  · simp [step, fetch, hfault, hsched, hdecode, raise]

/-- Settles O4, by running the decoder on each item (95_test_vectors.md V-DEC, V-H8). -/
theorem writtenCodesDecode : Obligations.WrittenCodesDecode := by
  unfold Obligations.WrittenCodesDecode
  decide

end Sys2Proof.Proofs
end

section
/-! O55: the registers. What the invariant says of the two sequencers is one predicate on a state code and a bit counter
(`SeqFits`), so each kind of move along their state graphs is checked once. -/

namespace Sys2Proof.Machine

variable {s t : State} {i : Instr} {k : TaskId} {c : Command} {p : ArmPhase}

/-- The state register of a sequencer holds one of its `codes` codes, and its bit counter is in range where a clock is awaited: in
either sequencer code 3 awaits the rise and code 4 the fall (30_encoding.md R91, R92). -/
structure SeqFits (codes : Nat) (state bits : Nibble) : Prop where
  code : state.toNat < codes
  rise : state = 3 → 1 ≤ bits.toNat ∧ bits.toNat ≤ 8
  fall : state = 4 → bits.toNat ≤ 7

/-- WRE's index does not pass its count, nor the count its data (10_state.md R32). -/
structure WreFits (idx count : Word) (data : List Byte) : Prop where
  idx   : idx.toNat ≤ count.toNat
  count : count.toNat ≤ data.length

theorem regInv_iff :
    RegInv s ↔ SeqFits 8 s.rx.state s.rx.bits ∧ SeqFits 5 s.tx.state s.tx.bits ∧ s.rde.idx.toNat ≤ s.rde.count.toNat ∧
      WreFits s.wre.idx s.wre.count s.wre.data ∧ s.eotPhase.toNat < 8 ∧ -1 ≤ s.stg.reps :=
  ⟨fun ⟨hrx, htx, hphase, hrxRise, hrxFall, htxRise, htxFall, hrde, hwre, hcount, hreps⟩ =>
      ⟨⟨hrx, hrxRise, hrxFall⟩, ⟨htx, htxRise, htxFall⟩, hrde, ⟨hwre, hcount⟩, hphase, hreps⟩,
    fun ⟨⟨hrx, hrxRise, hrxFall⟩, ⟨htx, htxRise, htxFall⟩, hrde, ⟨hwre, hcount⟩, hphase, hreps⟩ =>
      ⟨hrx, htx, hphase, hrxRise, hrxFall, htxRise, htxFall, hrde, hwre, hcount, hreps⟩⟩

/-- A state that awaits no clock leaves the bit counter free. -/
theorem SeqFits.of_not_clocked {n : Nat} {state bits : Nibble} (hn : state.toNat < n) (h3 : state ≠ 3) (h4 : state ≠ 4) :
    SeqFits n state bits := ⟨hn, fun h => absurd h h3, fun h => absurd h h4⟩

/-- The state after a restart (42_copy_engines.md R160). -/
theorem SeqFits.idle {n : Nat} (hn : 0 < n) : SeqFits n 0 0 := .of_not_clocked hn (by decide) (by decide)

/-- A byte starts with eight bits to come. -/
theorem SeqFits.start {n : Nat} (hn : 4 < n) : SeqFits n 3 8 := ⟨by simp; omega, by simp, by simp⟩

/-- A rising clock counts one bit. -/
theorem SeqFits.clock {n : Nat} {bits : Nibble} (hn : 4 < n) (hs : SeqFits n 3 bits) : SeqFits n 4 (bits - 1) := by
  obtain ⟨hlow, hhigh⟩ := hs.rise rfl
  exact ⟨by simpa using hn, by simp, fun _ => by bv_omega⟩

/-- A falling clock goes on to the next bit, or to the state `last` after the eighth. -/
theorem SeqFits.settle {n : Nat} {last bits : Nibble} (hn : last.toNat < n) (h3 : last ≠ 3) (h4 : last ≠ 4)
    (hs : SeqFits n 4 bits) : SeqFits n (if bits = 0 then last else 3) bits := by
  have hcode := hs.code
  have hfall := hs.fall rfl
  split
  · exact .of_not_clocked hn h3 h4
  · exact ⟨by simp at hcode ⊢; omega, fun _ => by bv_omega, by simp⟩

/-- A copy below its end leaves the index within the count. -/
theorem toNat_succ_le {idx count : Word} (h : idx.toNat < count.toNat) : (idx + 1).toNat ≤ count.toNat := by bv_omega

theorem wreFits_sendCount {b : Nat} {bytes : List Byte} : WreFits 0 (sendCount b bytes) bytes where
  idx := Nat.zero_le _
  count := (Nat.mod_le _ _).trans (Nat.min_le_right _ _)

theorem ArmEffect.regInv (h : ArmEffect k c s p t) (hs : RegInv s) : RegInv t := by
  obtain ⟨hrx, htx, hrde, hwre, hphase, hreps⟩ := regInv_iff.mp hs
  rw [regInv_iff]
  cases h with
  | error | a2 => exact ⟨hrx, htx, hrde, hwre, hphase, hreps⟩
  | a1 =>
    rw [State.stopAll_eq]
    rcases s.cfg.duplex <;> exact ⟨hrx, htx, hrde, hwre, hphase, hreps⟩
  | a3 => exact ⟨hrx, htx, Nat.zero_le _, hwre, hphase, hreps⟩
  | a4 =>
    unfold armA4
    split
    · rename_i hsend
      have hd : s.cfg.duplex = true := by simp_all
      have hreps' : -1 ≤ if 0 < s.stg.reps then s.stg.reps - 1 else s.stg.reps := by split <;> omega
      refine ⟨by simpa using hrx, by simpa using htx, by simpa using hrde, ?_, by simpa using hphase, hreps'⟩
      simpa [State.configWre_wre, hd] using wreFits_sendCount
    · exact ⟨hrx, htx, hrde, hwre, hphase, hreps⟩
  | a5 =>
    rw [armA5_eq]
    rcases s.wre.cfg && s.cfg.duplex <;> exact ⟨hrx, htx, hrde, hwre, hphase, hreps⟩
  | a6 =>
    rw [armA6_eq]
    rcases s.cfg.duplex
    · exact ⟨.idle (by decide), htx, hrde, hwre, hphase, hreps⟩
    · exact ⟨.idle (by decide), .idle (by decide), hrde, hwre, hphase, hreps⟩
  | a7 => rw [armDone_frame]; exact ⟨hrx, htx, hrde, hwre, hphase, hreps⟩

/-- Every step but the part WRE.CONFIG, whose count is its own operand, keeps the registers' invariant. -/
theorem Effect.regInv (h : Effect s i t) (hpart : i.isPart = false) (hs : RegInv s) : RegInv t := by
  have hregs := regInv_iff.mp hs
  have ⟨hrx, htx, hrde, hwre, hphase, hreps⟩ := hregs
  rw [regInv_iff]
  cases h with
  | armStart _ ha | armPhase _ ha => exact regInv_iff.mp (ha.regInv hs)
  | construct =>
    exact ⟨.idle (by decide), .idle (by decide), Nat.le_refl _, ⟨Nat.le_refl _, Nat.le_refl _⟩, by simp [State.built],
      by simp [State.built, Stage.built]⟩
  | deinit =>
    rw [State.stopAll_eq]
    rcases s.cfg.duplex <;> exact ⟨hrx, htx, hrde, hwre, hphase, hreps⟩
  | write _ _ _ hrepeats => exact ⟨hrx, htx, hrde, hwre, hphase, hrepeats⟩
  | rxAwaitBudget | rxAwaitCsHigh | rxDiscard | rxEnd | rxReport =>
    exact ⟨.of_not_clocked (by simp) (by simp) (by simp), htx, hrde, hwre, hphase, hreps⟩
  | rxAwaitCsLow | rxKeep => exact ⟨.start (by decide), htx, hrde, hwre, hphase, hreps⟩
  | rxWaitRise _ hstate => exact ⟨(hstate ▸ hrx).clock (by decide), htx, hrde, hwre, hphase, hreps⟩
  | rxWaitFall _ hstate =>
    exact ⟨(hstate ▸ hrx).settle (by decide) (by decide) (by decide), htx, hrde, hwre, hphase, hreps⟩
  | txAwaitCsHigh | txAwaitCsLow =>
    exact ⟨hrx, .of_not_clocked (by simp) (by simp) (by simp), hrde, hwre, hphase, hreps⟩
  | txLoad => exact ⟨hrx, .start (by decide), hrde, hwre, hphase, hreps⟩
  | txWaitRise _ hstate => exact ⟨hrx, (hstate ▸ htx).clock (by decide), hrde, hwre, hphase, hreps⟩
  | txWaitFall _ hstate =>
    exact ⟨hrx, (hstate ▸ htx).settle (by decide) (by decide) (by decide), hrde, hwre, hphase, hreps⟩
  | rdeXfer _ _ hbelow => exact ⟨hrx, htx, toNat_succ_le hbelow, hwre, hphase, hreps⟩
  | wreXfer _ _ _ hbelow => exact ⟨hrx, htx, hrde, ⟨toNat_succ_le hbelow, hwre.count⟩, hphase, hreps⟩
  | eotEntry | eotPlaceholder | eotSpurious | eotCheck | eotAccount | eotSignal | eotCallback | eotLeave =>
    exact ⟨hrx, htx, hrde, hwre, by simp, hreps⟩
  | eotStopEngines | eotStopSeq =>
    rcases hd : s.cfg.duplex <;>
      simpa [State.deactivateWre_wre, State.deactivateSeq_tx_tx, hd] using And.intro hrx ⟨htx, hrde, hwre, hreps⟩
  | rdeConfig | rdeActivate | rdeDeactivate | wreConfig | wreActivate | wreDeactivate | seqDeactivate | seqRestart
  | seqActivate => cases hpart
  | _ => simpa using hregs

/-- Fetching an item and recording a fault touch no register. -/
theorem RegInv.of_fault_sched_draws {l : List Item} {n : Nat} {f : Option FaultCode} (hs : RegInv s) :
    RegInv { s with sched := l, draws := n, fault := f } :=
  ⟨hs.rxState, hs.txState, hs.phase, hs.rxRise, hs.rxFall, hs.txRise, hs.txFall, hs.rdeIdx, hs.wreIdx, hs.wreCount, hs.reps⟩

end Sys2Proof.Machine
end

section
namespace Sys2Proof.Proofs

open Sys2Proof.Machine

/-- Settles O55, by what each effect does to the registers (30_encoding.md R91 to R93, 40_input_shifter.md R104,
41_output_shifter.md R134, 10_state.md R33). -/
theorem regInvKept : Obligations.RegInvKept := fun _ _ hs h =>
  step_keeps (fun _ _ _ hs => hs.of_fault_sched_draws) (fun _ _ hs => hs.of_fault_sched_draws)
    (fun _ _ _ hpart hs heffect => heffect.regInv hpart hs) hs h

end Sys2Proof.Proofs
end

section
/-! O18: bytes on the wire. One clock is one lemma for each direction; a byte is an induction over its clocks. -/

namespace Sys2Proof.Machine

variable {s t : State} {i : Instr} {is js : List Instr}

theorem runSteps_cons (h : takeStep i s = .next t) : runSteps (i :: is) s = runSteps is t := by simp [runSteps, h]

theorem runSteps_append (h : runSteps is s = .next t) : runSteps (is ++ js) s = runSteps js t := by
  induction is generalizing s with
  | nil => cases h; rfl
  | cons i is ih =>
    obtain ⟨u, hu⟩ := takeStep_next i s
    rw [runSteps_cons hu] at h
    rw [List.cons_append, runSteps_cons hu, ih h]

/-! The steps that a clock is made of, where they are enabled -/

theorem rxStep_of_enabled {enabled : Bool} (hon : s.RxOn) (hcode : rxReserved s.rx.state = false) (he : enabled = true) :
    rxStep s enabled t = .next t := by simp [rxStep, State.rxReady_iff.mpr hon, hcode, he]

theorem txStep_of_enabled {enabled : Bool} (hon : s.TxOn) (hcode : txReserved s.tx.state = false) (he : enabled = true) :
    txStep s enabled t = .next t := by simp [txStep, State.txReady_iff.mpr hon, hcode, he]

theorem takeStep_wireSck {v : Level} (h : s.fault = none) :
    takeStep (.wireSck v) s = .next { s with pins := { s.pins with sck := v } } := by
  simp [takeStep, Instr.isPart, exec, execWireSck, wireStep, h]

theorem takeStep_wireMosi {v : Level} (h : s.fault = none) :
    takeStep (.wireMosi v) s = .next { s with pins := { s.pins with mosi := v } } := by
  simp [takeStep, Instr.isPart, exec, execWireMosi, wireStep, h]

theorem takeStep_rxWaitRise (hon : s.RxOn) (hstate : s.rx.state = 3) (hsck : s.pins.sck = 1) :
    takeStep .rxWaitRise s =
      .next { s with rx := { s.rx with shift := shiftIn s.rx.shift s.pins.mosi, bits := s.rx.bits - 1, state := 4 } } :=
  rxStep_of_enabled hon (by simp [hstate, rxReserved]) (by simp [hstate, hsck])

theorem takeStep_rxWaitFall (hon : s.RxOn) (hstate : s.rx.state = 4) (hsck : s.pins.sck = 0) :
    takeStep .rxWaitFall s = .next { s with rx := { s.rx with state := if s.rx.bits = 0 then 5 else 3 } } :=
  rxStep_of_enabled hon (by simp [hstate, rxReserved]) (by simp [hstate, hsck])

theorem takeStep_txWaitRise (hon : s.TxOn) (hstate : s.tx.state = 3) (hsck : s.pins.sck = 1) :
    takeStep .txWaitRise s =
      .next { s.logEvent (.emit (topBit s.tx.shift)) with
        pins := { s.pins with miso := some (topBit s.tx.shift) }
        tx := { s.tx with shift := shiftIn s.tx.shift 0, bits := s.tx.bits - 1, state := 4 } } :=
  txStep_of_enabled hon (by simp [hstate, txReserved]) (by simp [hstate, hsck])

theorem takeStep_txWaitFall (hon : s.TxOn) (hstate : s.tx.state = 4) (hsck : s.pins.sck = 0) :
    takeStep .txWaitFall s = .next { s with tx := { s.tx with state := if s.tx.bits = 0 then 2 else 3 } } :=
  txStep_of_enabled hon (by simp [hstate, txReserved]) (by simp [hstate, hsck])

/-! One clock -/

theorem runSteps_bitSteps {c : Level} (hon : s.RxOn) (hstate : s.rx.state = 3) :
    runSteps (bitSteps c) s =
      .next { s with
        rx := { s.rx with
          shift := shiftIn s.rx.shift c, bits := s.rx.bits - 1, state := if s.rx.bits - 1 = 0 then 5 else 3 }
        pins := { s.pins with mosi := c, sck := 0 } } := by
  have hfault := hon.1.2
  refine Eq.trans (runSteps_cons (takeStep_wireMosi hfault)) ?_
  refine Eq.trans (runSteps_cons (takeStep_wireSck hfault)) ?_
  refine Eq.trans (runSteps_cons (takeStep_rxWaitRise hon hstate rfl)) ?_
  refine Eq.trans (runSteps_cons (takeStep_wireSck hfault)) ?_
  exact runSteps_cons (takeStep_rxWaitFall hon rfl rfl)

/-- One clock with TX's steps. -/
def txClock : List Instr := [.wireSck 1, .txWaitRise, .wireSck 0, .txWaitFall]

theorem runSteps_txClock (hon : s.TxOn) (hstate : s.tx.state = 3) :
    runSteps txClock s =
      .next { s with
        tx := { s.tx with
          shift := shiftIn s.tx.shift 0, bits := s.tx.bits - 1, state := if s.tx.bits - 1 = 0 then 2 else 3 }
        pins := { s.pins with miso := some (topBit s.tx.shift), sck := 0 }
        log := s.log ++ [.emit (topBit s.tx.shift)] } := by
  have hfault := hon.1.2
  refine Eq.trans (runSteps_cons (takeStep_wireSck hfault)) ?_
  refine Eq.trans (runSteps_cons (takeStep_txWaitRise hon hstate rfl)) ?_
  refine Eq.trans (runSteps_cons (takeStep_wireSck hfault)) ?_
  exact runSteps_cons (takeStep_txWaitFall hon rfl rfl)

/-! A byte -/

/-- RX from the first of its bits to the last: the shift register takes them all, and RX is in BYTE_DONE (40_input_shifter.md R104,
R105). -/
theorem runSteps_bits {cs : List Level} (hne : cs ≠ []) (hon : s.RxOn) (hstate : s.rx.state = 3)
    (hbits : s.rx.bits.toNat = cs.length) :
    runSteps (cs.flatMap bitSteps) s =
      .next { s with
        rx := { s.rx with shift := cs.foldl shiftIn s.rx.shift, bits := 0, state := 5 }
        pins := { s.pins with mosi := cs.getLast hne, sck := 0 } } := by
  induction cs generalizing s with
  | nil => exact absurd rfl hne
  | cons c cs ih =>
    rw [List.flatMap_cons, runSteps_append (runSteps_bitSteps hon hstate)]
    rcases cs with _ | ⟨c', cs⟩
    · have hlast : s.rx.bits = 1 := BitVec.eq_of_toNat_eq hbits
      simp [hlast, runSteps]
    · have hmore : (s.rx.bits - 1).toNat = (c' :: cs).length := by simp at hbits ⊢; bv_omega
      have hne0 : s.rx.bits - 1 ≠ 0 := fun h => by rw [h] at hmore; simp at hmore
      exact ih (by simp) hon (if_neg hne0) hmore

/-- The bits that a shift register sends in `n` clocks. -/
def sentBits : Nat → Byte → List Level
  | 0, _ => []
  | n + 1, r => topBit r :: sentBits n (shiftIn r 0)

/-- TX over as many clocks as it has bits to send, at least one: they are emitted in turn, and TX is in LOAD (41_output_shifter.md
R134, R135). -/
theorem runSteps_txClocks {n : Nat} (hon : s.TxOn) (hstate : s.tx.state = 3) (hbits : s.tx.bits.toNat = n + 1) :
    runSteps (List.replicate (n + 1) txClock).flatten s =
      .next { s with
        tx := { s.tx with shift := (shiftIn · 0)^[n + 1] s.tx.shift, bits := 0, state := 2 }
        pins := { s.pins with miso := some (topBit ((shiftIn · 0)^[n] s.tx.shift)), sck := 0 }
        log := s.log ++ (sentBits (n + 1) s.tx.shift).map .emit } := by
  induction n generalizing s with
  | zero =>
    have hlast : s.tx.bits = 1 := BitVec.eq_of_toNat_eq hbits
    simp [runSteps_txClock hon hstate, hlast, sentBits]
  | succ n ih =>
    have hmore : (s.tx.bits - 1).toNat = n + 1 := by bv_omega
    have hne0 : s.tx.bits - 1 ≠ 0 := fun h => by rw [h] at hmore; simp at hmore
    rw [List.replicate_succ, List.flatten_cons, runSteps_append (runSteps_txClock hon hstate)]
    refine Eq.trans (ih hon (if_neg hne0) hmore) ?_
    simp [sentBits]

theorem getElem_shiftIn (r : Byte) (v : Level) (n : Nat) (hn : n < 8) :
    (shiftIn r v)[n] = if n = 0 then v[0] else r[n - 1] := by
  rw [← BitVec.getLsbD_eq_getElem, shiftIn, BitVec.getLsbD_append]
  rcases n with _ | n
  · simp
  · simp [show n < 7 by omega, BitVec.getLsbD_eq_getElem (x := r) (show n < 8 by omega)]

/-- Eight bits shifted in leave nothing of what the register held (30_encoding.md R95). -/
theorem foldl_shiftIn_wireBits (r b : Byte) : (wireBits b).foldl shiftIn r = b := by
  ext n hn
  interval_cases n <;> simp [wireBits, getElem_shiftIn]

theorem sentBits_eight : ∀ r : Byte, sentBits 8 r = wireBits r := by decide

theorem topBit_iterate_shiftIn_seven : ∀ r : Byte, topBit ((shiftIn · 0)^[7] r) = r.extractLsb' 0 1 := by decide

theorem iterate_shiftIn_eight : ∀ r : Byte, (shiftIn · 0)^[8] r = 0 := by decide

end Sys2Proof.Machine
end

section
namespace Sys2Proof.Proofs

open Sys2Proof.Machine

/-- Settles O18, by one induction over the clocks in each direction (30_encoding.md R95, 40_input_shifter.md R104,
41_output_shifter.md R134). -/
theorem byteCrossesTheWire : Obligations.ByteCrossesTheWire := by
  refine ⟨fun s b hon hstate hbits => ?_, fun s hon hstate hbits => ?_⟩
  · rw [runSteps_bits (by simp [wireBits]) hon hstate (by simp [hbits, wireBits]), foldl_shiftIn_wireBits]
    rfl
  · have h := runSteps_txClocks (n := 7) hon hstate (by simp [hbits])
    rwa [sentBits_eight, topBit_iterate_shiftIn_seven, iterate_shiftIn_eight] at h

end Sys2Proof.Proofs
end

section
/-! RX (40_input_shifter.md): the shape that its nine steps share, and what an RX step reads and writes. TX's and the handler's
steps have the same shape, so a reserved code in a state register is one lemma for each agent. -/

namespace Sys2Proof.Machine

variable {s s' t t' : State} {i : Instr} {k : TaskId} {c : Command} {p : ArmPhase}

/-! Each agent's steps have one form -/

/-- Every RX step is an `rxStep`, so R100 and R111 hold of all nine alike. -/
theorem exec_eq_rxStep (hi : i.agent = .rx) : ∃ enabled after, exec i s = rxStep s enabled after := by
  cases i with
  | rxByteDone =>
    by_cases hr : s.rx.r = 0
    · exact ⟨_, _, if_pos hr⟩
    · exact ⟨_, _, if_neg hr⟩
  | rxAwaitBudget | rxAwaitCsHigh | rxAwaitCsLow | rxWaitRise | rxWaitFall | rxOverrunWatch | rxReport | rxEnd =>
    exact ⟨_, _, rfl⟩
  | _ => cases hi

theorem exec_eq_txStep (hi : i.agent = .tx) : ∃ enabled after, exec i s = txStep s enabled after := by
  cases i with
  | txAwaitCsHigh | txAwaitCsLow | txLoad | txWaitRise | txWaitFall => exact ⟨_, _, rfl⟩
  | _ => cases hi

theorem exec_eq_eotStep (hi : i ∈ handlerSteps) : ∃ enabled out, exec i s = eotStep s enabled out := by
  cases i with
  | eotEntry | eotStopEngines | eotPlaceholder | eotCheck | eotAccount | eotStopSeq | eotSignal | eotCallback =>
    exact ⟨_, _, rfl⟩
  | _ => simp [handlerSteps] at hi

/-! When a step of that form holds, and when it records F_RESERVED_STATE -/

theorem rxReserved_eq_false_iff {code : Nibble} : rxReserved code = false ↔ code.toNat < 8 := by simp [rxReserved]

theorem rxStep_of_not_on {enabled : Bool} (hoff : ¬ s.RxOn) : rxStep s enabled t = .next s := by
  have hready : s.rxReady = false := Bool.eq_false_iff.mpr fun h => hoff (State.rxReady_iff.mp h)
  simp [rxStep, hready, hold]

theorem rxStep_of_not_enabled {enabled : Bool} (hcode : s.rx.state.toNat < 8) (he : enabled = false) :
    rxStep s enabled t = .next s := by
  simp [rxStep, rxReserved_eq_false_iff.mpr hcode, he, hold]

theorem raise_of_sound {f : FaultCode} (hsound : s.Sound) : raise f s = .next { s with fault := some f } := by
  simp [raise, hsound.2]

theorem rxStep_of_reserved {enabled : Bool} (hon : s.RxOn) (hcode : 8 ≤ s.rx.state.toNat) :
    rxStep s enabled t = .next { s with fault := some .reservedState } := by
  simp [rxStep, State.rxReady_iff.mpr hon, rxReserved, hcode, raise_of_sound hon.1]

theorem txStep_of_reserved {enabled : Bool} (hon : s.TxOn) (hcode : 5 ≤ s.tx.state.toNat) :
    txStep s enabled t = .next { s with fault := some .reservedState } := by
  simp [txStep, State.txReady_iff.mpr hon, txReserved, hcode, raise_of_sound hon.1]

theorem eotStep_of_reserved {enabled : Bool} {o : Out} (hsound : s.Sound) (hcode : 8 ≤ s.eotPhase.toNat) :
    eotStep s enabled o = .next { s with fault := some .reservedState } := by
  simp [eotStep, State.liveAndSound_iff.mpr hsound, phaseReserved, hcode, raise_of_sound hsound]

/-! The state graph (R114) -/

/-- A phase of ARM leaves RX's state, or restarts RX. -/
theorem ArmEffect.rxState_eq_or_zero (h : ArmEffect k c s p t) : t.rx.state = s.rx.state ∨ t.rx.state = 0 := by
  cases h with
  | error | a2 | a3 => exact .inl rfl
  | a1 => exact .inl (by simp [State.stopAll])
  | a4 => rw [armA4_frame]; exact .inl rfl
  | a5 => rw [armA5_eq]; exact .inl rfl
  | a6 => rw [armA6_eq]; exact .inr rfl
  | a7 => rw [armDone_frame]; exact .inl (by simp)

/-- Of the other agents' steps, only a restart and a construction move RX's state, and they move it to AWAIT_BUDGET (10_state.md
R21, 42_copy_engines.md R160). -/
theorem Effect.rxState_cases (h : Effect s i t) (hi : i.agent ≠ .rx) :
    t.rx.state = s.rx.state ∨
    (t.rx.state = 0 ∧
      (i = .seqRestart .rx ∨ (∃ k d b m, i = .arm k d b m) ∨ ∃ k c b x p cb q, i = .construct k c b x p cb q)) := by
  cases h with
  | construct => exact .inr ⟨rfl, .inr (.inr ⟨_, _, _, _, _, _, _, rfl⟩)⟩
  | armStart _ ha | armPhase _ ha =>
    exact ha.rxState_eq_or_zero.imp_right fun h => ⟨h, .inr (.inl ⟨_, _, _, _, rfl⟩)⟩
  | @seqRestart q =>
    cases q with
    | rx => exact .inr ⟨rfl, .inl rfl⟩
    | tx => exact .inl (by simp)
  | @seqDeactivate q | @seqActivate q => cases q <;> exact .inl (by simp)
  | deinit => exact .inl (by simp [State.stopAll])
  | rxAwaitBudget | rxAwaitCsHigh | rxAwaitCsLow | rxWaitRise | rxWaitFall | rxKeep | rxDiscard | rxEnd | rxReport =>
    exact absurd rfl hi
  | _ => exact .inl (by simp)

/-! What an RX step writes and what it reads (R100) -/

/-- Besides FAULT an RX step writes RX's registers but for RX.active, takes CH_RXIN's oldest word and adds one to CH_RXOUT. -/
structure RxFrame (s t : State) : Prop where
  rest   : t = { s with rx := t.rx, ch := { s.ch with rxin := t.ch.rxin, rxout := t.ch.rxout }, fault := t.fault }
  active : t.rx.active = s.rx.active
  rxin   : t.ch.rxin = s.ch.rxin ∨ ∃ w, s.ch.rxin = w :: t.ch.rxin
  rxout  : t.ch.rxout = s.ch.rxout ∨ ∃ w, t.ch.rxout = s.ch.rxout ++ [w]

theorem RxFrame.mem_eq (h : RxFrame s t) : t.mem = s.mem := by rw [h.rest]

theorem Effect.rxFrame (h : Effect s i t) (hi : i.agent = .rx) : RxFrame s t := by
  cases h with
  | rxAwaitBudget _ _ hword | rxEnd _ _ hword => exact ⟨rfl, rfl, .inr ⟨_, (List.cons_head_tail hword).symm⟩, .inl rfl⟩
  | rxKeep | rxReport => exact ⟨rfl, rfl, .inl rfl, .inr ⟨_, rfl⟩⟩
  | rxAwaitCsHigh | rxAwaitCsLow | rxWaitRise | rxWaitFall | rxDiscard => exact ⟨rfl, rfl, .inl rfl, .inl rfl⟩
  | _ => cases hi

theorem rxFrame_of_exec (h : exec i s = .next t) (hi : i.agent = .rx) : RxFrame s t := by
  obtain rfl | ⟨_, _, rfl⟩ | heffect := exec_effect h
  · exact ⟨rfl, rfl, .inl rfl, .inl rfl⟩
  · exact ⟨rfl, rfl, .inl rfl, .inl rfl⟩
  · exact heffect.rxFrame hi

/-- The two states agree on all that an RX step reads: RX's registers, the input pins, its two channels, the conditions it is
enabled under and the parameters. -/
structure RxReadsAlike (s s' : State) : Prop where
  rx     : s'.rx = s.rx
  cs     : s'.pins.cs = s.pins.cs
  sck    : s'.pins.sck = s.pins.sck
  mosi   : s'.pins.mosi = s.pins.mosi
  rxin   : s'.ch.rxin = s.ch.rxin
  rxout  : s'.ch.rxout = s.ch.rxout
  life   : s'.life = s.life
  fault  : s'.fault = s.fault
  params : s'.params = s.params

/-- The two states agree on all that an RX step writes. -/
structure RxWritesAlike (t t' : State) : Prop where
  rx    : t'.rx = t.rx
  rxin  : t'.ch.rxin = t.ch.rxin
  rxout : t'.ch.rxout = t.ch.rxout
  fault : t'.fault = t.fault

theorem RxReadsAlike.chanEmpty (h : RxReadsAlike s s') : s'.chanEmpty .rxin = s.chanEmpty .rxin :=
  congrArg List.isEmpty h.rxin

theorem RxReadsAlike.chanFull (h : RxReadsAlike s s') : s'.chanFull .rxout = s.chanFull .rxout := by
  unfold State.chanFull State.chan
  rw [h.params, h.rxout]

theorem RxReadsAlike.headWord (h : RxReadsAlike s s') : s'.headWord .rxin = s.headWord .rxin :=
  congrArg (List.headD · 0) h.rxin

/-- New registers for RX alone. -/
theorem RxReadsAlike.setRx {r r' : RxRegs} (h : RxReadsAlike s s') (hr : r' = r) :
    RxWritesAlike { s with rx := r } { s' with rx := r' } := ⟨hr, h.rxin, h.rxout, h.fault⟩

/-- The oldest word of CH_RXIN taken. -/
theorem RxReadsAlike.pop {r r' : RxRegs} (h : RxReadsAlike s s') (hr : r' = r) :
    RxWritesAlike { s.pop .rxin with rx := r } { s'.pop .rxin with rx := r' } :=
  ⟨hr, congrArg List.tail h.rxin, h.rxout, h.fault⟩

/-- A word put into CH_RXOUT. -/
theorem RxReadsAlike.put {r r' : RxRegs} {w w' : Word} (h : RxReadsAlike s s') (hr : r' = r) (hw : w' = w) :
    RxWritesAlike { s.put .rxout w with rx := r } { s'.put .rxout w' with rx := r' } :=
  ⟨hr, h.rxin, congrArg₂ (· ++ [·]) h.rxout hw, h.fault⟩

/-- Alike reads give the frame of an RX step the same answer: both hold, both fault, or both have their effect. -/
theorem RxReadsAlike.writesAlike_of_rxStep {enabled enabled' : Bool} {u u' : State} (h : RxReadsAlike s s')
    (he : enabled' = enabled) (hu : RxWritesAlike u u') (ht : rxStep s enabled u = .next t)
    (ht' : rxStep s' enabled' u' = .next t') : RxWritesAlike t t' := by
  have hready : s'.rxReady = s.rxReady := by simp [State.rxReady, State.liveAndSound, h.life, h.fault, h.rx]
  rw [rxStep, he, hready, h.rx] at ht'
  rw [rxStep] at ht
  split at ht
  · rw [if_pos ‹_›] at ht'
    cases ht; cases ht'
    exact ⟨h.rx, h.rxin, h.rxout, h.fault⟩
  · rw [if_neg ‹_›] at ht'
    split at ht
    · rw [if_pos ‹_›] at ht'
      cases ht; cases ht'
      exact ⟨h.rx, h.rxin, h.rxout, by simp [h.fault]⟩
    · rw [if_neg ‹_›] at ht'
      split at ht
      · rw [if_pos ‹_›] at ht'
        cases ht; cases ht'
        exact hu
      · rw [if_neg ‹_›] at ht'
        cases ht; cases ht'
        exact ⟨h.rx, h.rxin, h.rxout, h.fault⟩

/-- What an RX step writes depends on what it reads alone. -/
theorem RxReadsAlike.writesAlike_of_exec (h : RxReadsAlike s s') (hi : i.agent = .rx) (ht : exec i s = .next t)
    (ht' : exec i s' = .next t') : RxWritesAlike t t' := by
  cases i with
  | rxAwaitBudget => exact h.writesAlike_of_rxStep (by rw [h.rx, h.chanEmpty]) (h.pop (by rw [h.rx, h.headWord])) ht ht'
  | rxAwaitCsHigh | rxAwaitCsLow => exact h.writesAlike_of_rxStep (by rw [h.rx, h.cs]) (h.setRx (by rw [h.rx])) ht ht'
  | rxWaitRise => exact h.writesAlike_of_rxStep (by rw [h.rx, h.sck]) (h.setRx (by rw [h.rx, h.mosi])) ht ht'
  | rxWaitFall => exact h.writesAlike_of_rxStep (by rw [h.rx, h.sck]) (h.setRx (by rw [h.rx])) ht ht'
  | rxByteDone =>
    simp only [exec, execRxByteDone, h.rx] at ht ht'
    split at ht
    · rw [if_pos ‹_›] at ht'
      exact h.writesAlike_of_rxStep rfl (h.setRx rfl) ht ht'
    · rw [if_neg ‹_›] at ht'
      exact h.writesAlike_of_rxStep (by rw [h.chanFull]) (h.put rfl rfl) ht ht'
  | rxOverrunWatch => exact h.writesAlike_of_rxStep rfl ⟨h.rx, h.rxin, h.rxout, h.fault⟩ ht ht'
  | rxReport => exact h.writesAlike_of_rxStep (by rw [h.rx, h.chanFull]) (h.put (by rw [h.rx]) (by rw [h.params, h.rx])) ht ht'
  | rxEnd => exact h.writesAlike_of_rxStep (by rw [h.rx, h.chanEmpty]) (h.pop (by rw [h.rx])) ht ht'
  | _ => cases hi

end Sys2Proof.Machine
end

section
namespace Sys2Proof.Proofs

open Sys2Proof.Machine

/-- Settles O16: RX's own effects are the rows of the state graph, and the other agents' steps restart RX or build it
(40_input_shifter.md R114, 42_copy_engines.md R160). -/
theorem rxMovesAlongStateGraph : Obligations.RxMovesAlongStateGraph := by
  intro i s t h hmove
  obtain rfl | ⟨_, _, rfl⟩ | heffect := exec_effect h
  · exact absurd rfl hmove
  · exact absurd rfl hmove
  · by_cases hi : i.agent = .rx
    · cases heffect with
      | rxAwaitBudget _ hstate hword => simp [hstate, hword]
      | rxAwaitCsHigh _ hstate hcs | rxAwaitCsLow _ hstate hcs => simp [hstate, hcs]
      | rxWaitRise _ hstate hsck | rxWaitFall _ hstate hsck => simp [hstate, hsck]
      | rxKeep _ hstate hr hroom => simpa [hstate, hroom] using hr
      | rxDiscard _ hstate hr => simp [hstate, hr]
      | rxEnd _ hstate hword => obtain hstate | hstate | hstate := hstate <;> simp [hstate, hword]
      | rxReport _ hstate hroom => simp [hstate, hroom]
      | _ => cases hi
    · have hrestart := (heffect.rxState_cases hi).resolve_left hmove
      simp only [hrestart, true_and, or_true]

/-- Settles O15: the frame of RX's effects, and the reads that each step's condition and effect name (40_input_shifter.md R100). -/
theorem rxTouchesOnlyItsOwn : Obligations.RxTouchesOnlyItsOwn := by
  refine ⟨fun i s t hi h => ?_, fun i s s' t t' hi hrx hcs hsck hmosi hrxin hrxout hlife hfault hparams h h' => ?_⟩
  · have hframe := rxFrame_of_exec h hi
    refine ⟨fun hoff => ?_, hframe.rest, hframe.active, hframe.rxin, hframe.rxout, State.memRead_congr hframe.mem_eq⟩
    obtain ⟨enabled, after, hstep⟩ := exec_eq_rxStep (s := s) hi
    rw [hstep, rxStep_of_not_on hoff] at h
    injection h with h
    exact h.symm
  · have halike : RxReadsAlike s s' := ⟨hrx, hcs, hsck, hmosi, hrxin, hrxout, hlife, hfault, hparams⟩
    have ⟨hrx, hrxin, hrxout, hfault⟩ := halike.writesAlike_of_exec hi h h'
    exact ⟨hrx, hrxin, hrxout, hfault⟩

/-- Settles O17: each agent's steps test their state register before their own condition (40_input_shifter.md R111,
41_output_shifter.md R136, 30_encoding.md R93; log entry 16). -/
theorem reservedStateCodesFault : Obligations.ReservedStateCodesFault := by
  refine ⟨fun i s hi hon hcode => ?_, fun i s hi hon hcode => ?_, fun i s hi hsound hcode => ?_,
    fun s hsound hphase hword hb => ?_, rfl⟩
  · obtain ⟨_, _, hstep⟩ := exec_eq_rxStep (s := s) hi
    rw [hstep, rxStep_of_reserved hon hcode]
  · obtain ⟨_, _, hstep⟩ := exec_eq_txStep (s := s) hi
    rw [hstep, txStep_of_reserved hon hcode]
  · obtain ⟨_, _, hstep⟩ := exec_eq_eotStep (s := s) hi
    rw [hstep, eotStep_of_reserved hsound hcode]
  · have hempty : s.chanEmpty .rxout = false := State.chanEmpty_eq_false.mpr hword
    simp [exec, execEotAccount, eotStep, State.liveAndSound_iff.mpr hsound, phaseReserved, hphase, hempty, hb,
      raise_of_sound hsound]

end Sys2Proof.Proofs
end

section
/-! RX's steps one by one (40_input_shifter.md R101 to R109): where each is enabled, what it does to RX's two channels, and what it
computes. -/

namespace Sys2Proof.Machine

variable {s t : State} {code : Nibble} {guard : Bool} {w : Word} {rest : List Word}

/-- An RX step that is enabled in the state `code` under a condition `guard`, where both hold. -/
theorem rxStep_of_state_and_guard (hon : s.RxOn) (hstate : s.rx.state = code) (hcode : rxReserved code = false)
    (hguard : guard = true) : rxStep s (s.rx.state == code && guard) t = .next t :=
  rxStep_of_enabled hon (hstate ▸ hcode) (by simp [hstate, hguard])

/-- The same step in another state, or where the condition fails. -/
theorem rxStep_of_state_or_guard (hcode : s.rx.state.toNat < 8) (h : s.rx.state ≠ code ∨ guard = false) :
    rxStep s (s.rx.state == code && guard) t = .next s :=
  rxStep_of_not_enabled hcode (Bool.and_eq_false_iff.mpr (h.imp_left beq_eq_false_iff_ne.mpr))

theorem State.pop_rxin (h : s.ch.rxin = w :: rest) : s.pop .rxin = { s with ch := { s.ch with rxin := rest } } := by
  simp [State.pop, State.setChan, State.chan, h]

theorem State.headWord_rxin (h : s.ch.rxin = w :: rest) : s.headWord .rxin = w := by simp [State.headWord, State.chan, h]

theorem State.chanEmpty_rxin_of_cons (h : s.ch.rxin = w :: rest) : (!s.chanEmpty .rxin) = true := by
  simp [State.chanEmpty, State.chan, h]

theorem State.chanEmpty_rxin_of_nil (h : s.ch.rxin = []) : (!s.chanEmpty .rxin) = false := by
  simp [State.chanEmpty, State.chan, h]

theorem State.chanFull_rxout_of_room (h : s.ch.rxout.length < s.params.depth) : (!s.chanFull .rxout) = true := by
  rw [(State.chanFull_eq_false (c := .rxout)).mpr h, Bool.not_false]

theorem State.chanFull_rxout_of_full (h : s.params.depth ≤ s.ch.rxout.length) : (!s.chanFull .rxout) = false := by
  have hfull : s.chanFull .rxout = true := decide_eq_true h
  rw [hfull, Bool.not_true]

/-- Shifting a bit in at the low end, as the spec's expression (R104). -/
theorem shiftIn_eq (r : Byte) (v : Level) : shiftIn r v = (r <<< 1) ||| v.setWidth 8 := by
  ext n hn
  rw [getElem_shiftIn r v n hn]
  rcases n with _ | n <;> simp [BitVec.getElem_setWidth]

/-- A budget that is not 0 goes down by one, without borrow (R106). -/
theorem sub_one_eq_ofNat (h : w ≠ 0) : w - 1 = BitVec.ofNat 32 (w.toNat - 1) := by bv_omega

/-- The report is the remaining budget modulo 2^W (R109). -/
theorem reportWord_eq (n : Nat) (r : Word) : reportWord n r = BitVec.ofNat 32 (r.toNat % 2 ^ n) := by
  apply BitVec.eq_of_toNat_eq
  simp [reportWord]

theorem two_pow_le {n : Nat} (hn : n ≤ 32) : 2 ^ n ≤ 2 ^ 32 := Nat.pow_le_pow_right (by decide) hn

theorem toNat_reportWord {n : Nat} (hn : n ≤ 32) (r : Word) : (reportWord n r).toNat = r.toNat % 2 ^ n := by
  have hlt : r.toNat % 2 ^ n < 2 ^ n := Nat.mod_lt _ (Nat.two_pow_pos n)
  rw [reportWord_eq, BitVec.toNat_ofNat, Nat.mod_eq_of_lt (hlt.trans_le (two_pow_le hn))]

theorem toNat_sentinel {n : Nat} (hn : n ≤ 32) : (sentinel n).toNat = 2 ^ n - 1 := by
  have hpos := Nat.two_pow_pos n
  have hle := two_pow_le hn
  rw [sentinel, BitVec.toNat_ofNat, Nat.mod_eq_of_lt (by omega)]

/-- The wrapped budget is all ones, so its low W bits are (R106, 30_encoding.md R94). -/
theorem reportWord_allOnes {n : Nat} (hn : n ≤ 32) : reportWord n 0xFFFFFFFF = sentinel n := by
  apply BitVec.eq_of_toNat_eq
  rw [toNat_reportWord hn, toNat_sentinel hn]
  interval_cases n <;> rfl

theorem reportWord_of_le {n : Nat} (hn : n ≤ 32) {r : Word} (hr : r.toNat ≤ 2 ^ n - 2) : reportWord n r = r := by
  have hpos := Nat.two_pow_pos n
  apply BitVec.eq_of_toNat_eq
  rw [toNat_reportWord hn, Nat.mod_eq_of_lt (by omega)]

end Sys2Proof.Machine
end

section
namespace Sys2Proof.Proofs

open Sys2Proof.Machine

/-- Settles O9, by the step's condition (40_input_shifter.md R101). -/
theorem rxAwaitBudgetLoads : Obligations.RxAwaitBudgetLoads := by
  refine ⟨fun s w rest hon hstate hword => ?_,
    fun s hon hcode h => rxStep_of_state_or_guard hcode (h.imp_right State.chanEmpty_rxin_of_nil)⟩
  refine (rxStep_of_state_and_guard hon hstate rfl (State.chanEmpty_rxin_of_cons hword)).trans ?_
  rw [State.pop_rxin hword, State.headWord_rxin hword]

/-- Settles O10, by the steps' conditions on PIN.cs (40_input_shifter.md R102, R103). -/
theorem rxChipSelectWaits : Obligations.RxChipSelectWaits :=
  ⟨fun _ hon hstate hcs => rxStep_of_state_and_guard hon hstate rfl (by simp [hcs]),
    fun _ _ hcode h => rxStep_of_state_or_guard hcode (h.imp_right fun hcs => by simp [hcs]),
    fun _ hon hstate hcs => rxStep_of_state_and_guard hon hstate rfl (by simp [hcs]),
    fun _ _ hcode h => rxStep_of_state_or_guard hcode (h.imp_right fun hcs => by simp [hcs])⟩

/-- Settles O11, by the steps' conditions on PIN.sck (40_input_shifter.md R104, R105). -/
theorem rxShiftsOneBit : Obligations.RxShiftsOneBit := by
  refine ⟨fun s hon hstate hsck => ?_,
    fun _ _ hcode h => rxStep_of_state_or_guard hcode (h.imp_right fun hsck => by simp [hsck]),
    fun s hon hstate hsck hbits => ?_, fun s hon hstate hsck hbits => ?_,
    fun _ _ hcode h => rxStep_of_state_or_guard hcode (h.imp_right fun hsck => by simp [hsck])⟩
  · rw [← takeStep_of_not_part rfl, takeStep_rxWaitRise hon hstate hsck, shiftIn_eq]
  · rw [← takeStep_of_not_part rfl, takeStep_rxWaitFall hon hstate hsck, if_pos hbits]
  · rw [← takeStep_of_not_part rfl, takeStep_rxWaitFall hon hstate hsck, if_neg hbits]

/-- Settles O12: the budget is tested first, and only a byte that is kept needs room (40_input_shifter.md R106). -/
theorem rxByteDoneTestsThenDecrements : Obligations.RxByteDoneTestsThenDecrements := by
  refine ⟨fun s hon hstate hr hroom => ?_, fun s hon hstate hr => ?_, fun s hon hstate hr hfull => ?_,
    fun s hon hcode hstate => ?_⟩
  · rw [← sub_one_eq_ofNat hr]
    exact (if_neg hr).trans (rxStep_of_state_and_guard hon hstate rfl (State.chanFull_rxout_of_room hroom))
  · have hwrap : s.rx.r - 1 = 0xFFFFFFFF := by rw [hr]; rfl
    rw [← hwrap]
    exact (if_pos hr).trans (rxStep_of_enabled hon (hstate ▸ rfl) (beq_iff_eq.mpr hstate))
  · exact (if_neg hr).trans (rxStep_of_state_or_guard (by simp [hstate]) (.inr (State.chanFull_rxout_of_full hfull)))
  · by_cases hr : s.rx.r = 0
    · exact (if_pos hr).trans (rxStep_of_not_enabled hcode (beq_eq_false_iff_ne.mpr hstate))
    · exact (if_neg hr).trans (rxStep_of_state_or_guard hcode (.inl hstate))

/-- Settles O13: RX.END alone has a condition that state 6 meets (40_input_shifter.md R107, R108). -/
theorem rxEndsAtTransferEnded : Obligations.RxEndsAtTransferEnded := by
  refine ⟨fun s hon hcode => rxStep_of_not_enabled hcode rfl, fun i s hi hend hon hstate => ?_,
    fun s w rest hon hstate hword => ?_, fun s hon hcode h => rxStep_of_not_enabled hcode ?_⟩
  · have hcode : s.rx.state.toNat < 8 := by simp [hstate]
    cases i with
    | rxByteDone =>
      obtain ⟨_, _, _, hother⟩ := rxByteDoneTestsThenDecrements
      exact hother s hon hcode (by simp [hstate])
    | rxAwaitBudget | rxAwaitCsHigh | rxAwaitCsLow | rxWaitRise | rxWaitFall | rxOverrunWatch | rxReport =>
      exact rxStep_of_not_enabled hcode (by simp [hstate])
    | rxEnd => exact absurd rfl hend
    | _ => cases hi
  · have hhead := State.chanEmpty_rxin_of_cons hword
    refine (rxStep_of_enabled hon ?_ ?_).trans (by rw [State.pop_rxin hword])
    · obtain h | h | h := hstate <;> simp [h, rxReserved]
    · obtain h | h | h := hstate <;> simp [h, hhead]
  · obtain ⟨h3, h4, h6⟩ | h := h
    · rw [beq_eq_false_iff_ne.mpr h3, beq_eq_false_iff_ne.mpr h4, beq_eq_false_iff_ne.mpr h6]; rfl
    · rw [State.chanEmpty_rxin_of_nil h, Bool.and_false]

/-- Settles O14: the report is R modulo 2^W, and only a wrapped counter reports all ones (40_input_shifter.md R109, 00_scope.md R6,
30_encoding.md R94). -/
theorem rxReportsRemainingBudget : Obligations.RxReportsRemainingBudget := by
  refine ⟨fun s hon hstate hroom _ _ => ?_,
    fun s hon hcode h => rxStep_of_state_or_guard hcode (h.imp_right State.chanFull_rxout_of_full),
    fun w _ hw => by rw [reportWord_allOnes hw, toNat_sentinel hw],
    fun w r hw2 hw hr => ⟨reportWord_of_le hw hr, fun heq => ?_⟩⟩
  · rw [← reportWord_eq]
    exact rxStep_of_state_and_guard hon hstate rfl (State.chanFull_rxout_of_room hroom)
  · have hall : r.toNat = 2 ^ w - 1 := by rw [← toNat_sentinel hw, ← heq, reportWord_of_le hw hr]
    have hpow : 2 ^ 2 ≤ 2 ^ w := Nat.pow_le_pow_right (by decide) hw2
    omega

end Sys2Proof.Proofs
end

section
/-! TX (41_output_shifter.md): what a TX step writes and what it reads (R130), as for RX. Two runs of a step are compared by what
each writes, since PIN.miso and LOG may differ between the states before it. -/

namespace Sys2Proof.Machine

variable {s s' t t' u u' : State} {i : Instr}

/-! When a TX step holds -/

theorem txStep_of_not_on {enabled : Bool} (hoff : ¬ s.TxOn) : txStep s enabled t = .next s := by
  have hready : s.txReady = false := Bool.eq_false_iff.mpr fun h => hoff (State.txReady_iff.mp h)
  simp [txStep, hready, hold]

theorem exec_tx_of_not_on (hi : i.agent = .tx) (hoff : ¬ s.TxOn) : exec i s = .next s := by
  obtain ⟨_, _, hstep⟩ := exec_eq_txStep (s := s) hi
  rw [hstep, txStep_of_not_on hoff]

theorem txReserved_eq_false_iff {code : Nibble} : txReserved code = false ↔ code.toNat < 5 := by simp [txReserved]

theorem txStep_of_not_enabled {enabled : Bool} (hcode : s.tx.state.toNat < 5) (he : enabled = false) :
    txStep s enabled t = .next s := by
  simp [txStep, txReserved_eq_false_iff.mpr hcode, he, hold]

/-! What a TX step writes -/

/-- Besides FAULT a TX step writes TX's registers but for TX.active, takes CH_TXIN's oldest word, drives PIN.miso and logs one
EMIT. -/
structure TxFrame (s t : State) : Prop where
  rest   : t = { s with tx := t.tx, ch := { s.ch with txin := t.ch.txin }, pins := { s.pins with miso := t.pins.miso },
                        log := t.log, fault := t.fault }
  active : t.tx.active = s.tx.active
  txin   : t.ch.txin = s.ch.txin ∨ ∃ w, s.ch.txin = w :: t.ch.txin
  log    : t.log = s.log ∨ ∃ b, t.log = s.log ++ [.emit b]

theorem TxFrame.mem_eq (h : TxFrame s t) : t.mem = s.mem := by rw [h.rest]

theorem Effect.txFrame (h : Effect s i t) (hi : i.agent = .tx) : TxFrame s t := by
  cases h with
  | txLoad _ _ hword => exact ⟨rfl, rfl, .inr ⟨_, (List.cons_head_tail hword).symm⟩, .inl rfl⟩
  | txWaitRise => exact ⟨rfl, rfl, .inl rfl, .inr ⟨_, rfl⟩⟩
  | txAwaitCsHigh | txAwaitCsLow | txWaitFall => exact ⟨rfl, rfl, .inl rfl, .inl rfl⟩
  | _ => cases hi

theorem txFrame_of_exec (h : exec i s = .next t) (hi : i.agent = .tx) : TxFrame s t := by
  obtain rfl | ⟨_, _, rfl⟩ | heffect := exec_effect h
  · exact ⟨rfl, rfl, .inl rfl, .inl rfl⟩
  · exact ⟨rfl, rfl, .inl rfl, .inl rfl⟩
  · exact heffect.txFrame hi

/-! What a TX step reads -/

/-- The two states agree on all that a TX step reads: TX's registers, chip-select, the clock, CH_TXIN and the conditions it is
enabled under. -/
structure TxReadsAlike (s s' : State) : Prop where
  tx     : s'.tx = s.tx
  cs     : s'.pins.cs = s.pins.cs
  sck    : s'.pins.sck = s.pins.sck
  txin   : s'.ch.txin = s.ch.txin
  life   : s'.life = s.life
  fault  : s'.fault = s.fault
  duplex : s'.cfg.duplex = s.cfg.duplex

/-- From `s` to `t` and from `s'` to `t'` the same is written: registers, channel and fault, the level driven on PIN.miso, if any,
and the events logged. -/
structure TxWritesAlike (s t s' t' : State) : Prop where
  tx    : t'.tx = t.tx
  txin  : t'.ch.txin = t.ch.txin
  fault : t'.fault = t.fault
  out   : ∃ (driven : Option Level) (events : List Event),
    t.pins.miso = (driven.orElse fun _ => s.pins.miso) ∧ t'.pins.miso = (driven.orElse fun _ => s'.pins.miso) ∧
    t.log = s.log ++ events ∧ t'.log = s'.log ++ events

theorem TxReadsAlike.txOn_iff (h : TxReadsAlike s s') : s'.TxOn ↔ s.TxOn := by
  simp only [State.TxOn, State.Sound, h.life, h.fault, h.tx, h.duplex]

theorem TxReadsAlike.chanEmpty (h : TxReadsAlike s s') : s'.chanEmpty .txin = s.chanEmpty .txin :=
  congrArg List.isEmpty h.txin

theorem TxReadsAlike.headWord (h : TxReadsAlike s s') : s'.headWord .txin = s.headWord .txin :=
  congrArg (List.headD · 0) h.txin

/-- What is written where PIN.miso and LOG are left as they are. -/
theorem TxWritesAlike.of_silent (htx : t'.tx = t.tx) (htxin : t'.ch.txin = t.ch.txin) (hfault : t'.fault = t.fault)
    (hmiso : t.pins.miso = s.pins.miso) (hmiso' : t'.pins.miso = s'.pins.miso) (hlog : t.log = s.log)
    (hlog' : t'.log = s'.log) : TxWritesAlike s t s' t' :=
  ⟨htx, htxin, hfault, none, [], hmiso, hmiso', by simp [hlog], by simp [hlog']⟩

/-- A hold. -/
theorem TxReadsAlike.unchanged (h : TxReadsAlike s s') : TxWritesAlike s s s' s' :=
  .of_silent h.tx h.txin h.fault rfl rfl rfl rfl

/-- New registers for TX alone. -/
theorem TxReadsAlike.setTx {r r' : TxRegs} (h : TxReadsAlike s s') (hr : r' = r) :
    TxWritesAlike s { s with tx := r } s' { s' with tx := r' } :=
  .of_silent hr h.txin h.fault rfl rfl rfl rfl

/-- The oldest word of CH_TXIN taken. -/
theorem TxReadsAlike.pop {r r' : TxRegs} (h : TxReadsAlike s s') (hr : r' = r) :
    TxWritesAlike s { s.pop .txin with tx := r } s' { s'.pop .txin with tx := r' } :=
  .of_silent hr (congrArg List.tail h.txin) h.fault rfl rfl rfl rfl

/-- A level driven on PIN.miso and logged. -/
theorem TxReadsAlike.emit {r r' : TxRegs} {b b' : Level} (h : TxReadsAlike s s') (hr : r' = r) (hb : b' = b) :
    TxWritesAlike s { s.logEvent (.emit b) with pins := { s.pins with miso := some b }, tx := r }
      s' { s'.logEvent (.emit b') with pins := { s'.pins with miso := some b' }, tx := r' } := by
  subst hb
  exact ⟨hr, h.txin, h.fault, some b', [.emit b'], rfl, rfl, rfl, rfl⟩

/-- Alike reads give the frame of a TX step the same answer: both hold, both fault, or both have their effect. -/
theorem TxReadsAlike.txStep_alike {enabled enabled' : Bool} (h : TxReadsAlike s s') (he : enabled' = enabled)
    (hu : TxWritesAlike s u s' u') :
    ∃ t t', txStep s enabled u = .next t ∧ txStep s' enabled' u' = .next t' ∧ TxWritesAlike s t s' t' := by
  subst he
  by_cases hon : s.TxOn
  · have hon' := h.txOn_iff.mpr hon
    by_cases hcode : 5 ≤ s.tx.state.toNat
    · exact ⟨_, _, txStep_of_reserved hon hcode, txStep_of_reserved hon' (h.tx ▸ hcode),
        .of_silent h.tx h.txin rfl rfl rfl rfl rfl⟩
    · have hcode : s.tx.state.toNat < 5 := Nat.not_le.mp hcode
      have hcode' : s'.tx.state.toNat < 5 := h.tx ▸ hcode
      cases enabled' with
      | false => exact ⟨_, _, txStep_of_not_enabled hcode rfl, txStep_of_not_enabled hcode' rfl, h.unchanged⟩
      | true =>
        exact ⟨_, _, txStep_of_enabled hon (txReserved_eq_false_iff.mpr hcode) rfl,
          txStep_of_enabled hon' (txReserved_eq_false_iff.mpr hcode') rfl, hu⟩
  · exact ⟨_, _, txStep_of_not_on hon, txStep_of_not_on (mt h.txOn_iff.mp hon), h.unchanged⟩

/-- What a TX step writes depends on what it reads alone. -/
theorem TxReadsAlike.exec_alike (h : TxReadsAlike s s') (hi : i.agent = .tx) :
    ∃ t t', exec i s = .next t ∧ exec i s' = .next t' ∧ TxWritesAlike s t s' t' := by
  cases i with
  | txAwaitCsHigh | txAwaitCsLow => exact h.txStep_alike (by rw [h.tx, h.cs]) (h.setTx (by rw [h.tx]))
  | txLoad => exact h.txStep_alike (by rw [h.tx, h.chanEmpty]) (h.pop (by rw [h.tx, h.headWord]))
  | txWaitRise => exact h.txStep_alike (by rw [h.tx, h.sck]) (h.emit (by rw [h.tx]) (by rw [h.tx]))
  | txWaitFall => exact h.txStep_alike (by rw [h.tx, h.sck]) (h.setTx (by rw [h.tx]))
  | _ => cases hi

end Sys2Proof.Machine
end

section
namespace Sys2Proof.Proofs

open Sys2Proof.Machine

/-- Settles O21: the frame of TX's effects, and the reads that each step's condition and effect name (41_output_shifter.md R130). -/
theorem txTouchesOnlyItsOwn : Obligations.TxTouchesOnlyItsOwn := by
  refine ⟨fun i s t hi h => ?_, fun i s s' t t' hi htx hcs hsck htxin hlife hfault hduplex h h' => ?_⟩
  · have hframe := txFrame_of_exec h hi
    refine ⟨fun hoff => ?_, hframe.rest, hframe.active, hframe.txin, hframe.log, State.memRead_congr hframe.mem_eq⟩
    cases (exec_tx_of_not_on hi hoff).symm.trans h
    rfl
  · have halike : TxReadsAlike s s' := ⟨htx, hcs, hsck, htxin, hlife, hfault, hduplex⟩
    obtain ⟨_, _, hu, hu', hwrites⟩ := halike.exec_alike hi
    cases hu.symm.trans h
    cases hu'.symm.trans h'
    have ⟨htx, htxin, hfault, hout⟩ := hwrites
    exact ⟨htx, htxin, hfault, hout⟩

end Sys2Proof.Proofs
end

section
/-! TX's steps one by one (41_output_shifter.md R131 to R135): where each is enabled, and what it takes and shifts. -/

namespace Sys2Proof.Machine

variable {s t : State} {code : Nibble} {guard : Bool} {c : Channel} {w : Word} {rest : List Word}

/-- A TX step that is enabled in the state `code` under a condition `guard`, where both hold. -/
theorem txStep_of_state_and_guard (hon : s.TxOn) (hstate : s.tx.state = code) (hcode : txReserved code = false)
    (hguard : guard = true) : txStep s (s.tx.state == code && guard) t = .next t :=
  txStep_of_enabled hon (hstate ▸ hcode) (by simp [hstate, hguard])

/-- The same step in another state, or where the condition fails. -/
theorem txStep_of_state_or_guard (hcode : s.tx.state.toNat < 5) (h : s.tx.state ≠ code ∨ guard = false) :
    txStep s (s.tx.state == code && guard) t = .next s :=
  txStep_of_not_enabled hcode (Bool.and_eq_false_iff.mpr (h.imp_left beq_eq_false_iff_ne.mpr))

theorem State.headWord_of_cons (h : s.chan c = w :: rest) : s.headWord c = w := by simp [State.headWord, h]

theorem State.not_chanEmpty_of_cons (h : s.chan c = w :: rest) : (!s.chanEmpty c) = true := by simp [State.chanEmpty, h]

theorem State.not_chanEmpty_of_nil (h : s.chan c = []) : (!s.chanEmpty c) = false := by simp [State.chanEmpty, h]

theorem State.pop_txin (h : s.ch.txin = w :: rest) : s.pop .txin = { s with ch := { s.ch with txin := rest } } := by
  simp [State.pop, State.setChan, State.chan, h]

/-- Shifting a zero in at the low end is the left shift by one (R134). -/
theorem shiftIn_zero (r : Byte) : shiftIn r 0 = r <<< 1 := by simp [shiftIn_eq]

end Sys2Proof.Machine
end

section
namespace Sys2Proof.Proofs

open Sys2Proof.Machine

/-- Settles O19, by the steps' conditions on PIN.cs and CH_TXIN (41_output_shifter.md R131, R132, R133). -/
theorem txWaitsAndLoads : Obligations.TxWaitsAndLoads := by
  refine ⟨fun _ hon hstate hcs => txStep_of_state_and_guard hon hstate rfl (by simp [hcs]),
    fun _ _ hcode h => txStep_of_state_or_guard hcode (h.imp_right fun hcs => by simp [hcs]),
    fun _ hon hstate hcs => txStep_of_state_and_guard hon hstate rfl (by simp [hcs]),
    fun _ _ hcode h => txStep_of_state_or_guard hcode (h.imp_right fun hcs => by simp [hcs]),
    fun s w rest hon hstate hword => ?_,
    fun _ _ hcode h => txStep_of_state_or_guard hcode (h.imp_right (State.not_chanEmpty_of_nil (c := .txin)))⟩
  refine (txStep_of_state_and_guard hon hstate rfl (State.not_chanEmpty_of_cons (c := .txin) hword)).trans ?_
  rw [State.pop_txin hword, State.headWord_of_cons (c := .txin) hword]
  rfl

/-- Settles O20, by the steps' conditions on PIN.sck (41_output_shifter.md R134, R135). -/
theorem txEmitsOneBit : Obligations.TxEmitsOneBit := by
  refine ⟨fun s hon hstate hsck => ?_,
    fun _ _ hcode h => txStep_of_state_or_guard hcode (h.imp_right fun hsck => by simp [hsck]),
    fun s hon hstate hsck hbits => ?_, fun s hon hstate hsck hbits => ?_,
    fun _ _ hcode h => txStep_of_state_or_guard hcode (h.imp_right fun hsck => by simp [hsck])⟩
  · rw [← takeStep_of_not_part rfl, takeStep_txWaitRise hon hstate hsck, shiftIn_zero]
    rfl
  · rw [← takeStep_of_not_part rfl, takeStep_txWaitFall hon hstate hsck, if_pos hbits]
  · rw [← takeStep_of_not_part rfl, takeStep_txWaitFall hon hstate hsck, if_neg hbits]

end Sys2Proof.Proofs
end

section
/-! O29: what RDE copies. Over a run without ARM and CONSTRUCT a step copies one byte or leaves memory, RDE's region and the MEMW
events as they are (`RdeMove`); what is said of the run (`RdeProgress`) composes move by move. -/

namespace Sys2Proof.Machine

variable {P : State → Prop} {s t u : State} {i : Instr} {is : List Instr}

/-- A property that recording a fault and every effect of the run's own steps keep holds at the end of the run. -/
theorem runSteps_keeps (hfault : ∀ s f, P s → P { s with fault := some f })
    (heffect : ∀ s i t, i ∈ is → i.isPart = false → P s → Effect s i t → P t) (hs : P s) (h : runSteps is s = .next t) :
    P t := by
  induction is generalizing s with
  | nil => cases h; exact hs
  | cons i is ih =>
    obtain ⟨u, hu⟩ := takeStep_next i s
    rw [runSteps_cons hu] at h
    refine ih (fun s j t hj => heffect s j t (List.mem_cons_of_mem i hj)) ?_ h
    obtain rfl | ⟨f, _, rfl⟩ | ⟨hpart, hstep⟩ := takeStep_effect hu
    · exact hs
    · exact hfault s f hs
    · exact heffect s i u List.mem_cons_self hpart hs hstep

/-- A byte written to memory by RDE (10_state.md R46). -/
def Event.isMemw : Event → Bool
  | .memw _ _ => true
  | _ => false

/-- What a step does to memory, to RDE's region and index, and to the MEMW events of LOG. -/
inductive RdeMove (s t : State) : Prop
  | keep (new : List Event) : t.mem = s.mem → t.rde.dst = s.rde.dst → t.rde.count = s.rde.count → t.rde.idx = s.rde.idx →
      t.log = s.log ++ new → new.filter Event.isMemw = [] → RdeMove s t
  | copy (b : Byte) : s.rde.idx.toNat < s.rde.count.toNat → t.mem = (s.memWrite (rdeAddr s.rde) b).mem →
      t.rde = { s.rde with idx := s.rde.idx + 1 } → t.log = s.log ++ [.memw (rdeAddr s.rde) b] → RdeMove s t

/-- RDE is set up anew by ARM and CONSTRUCT alone; every other step moves it on or leaves it (42_copy_engines.md R151, R167). -/
theorem Effect.rdeMove (h : Effect s i t) (hpart : i.isPart = false) (harm : ∀ k d b m, i ≠ .arm k d b m)
    (hconstruct : ∀ k c b x p cb q, i ≠ .construct k c b x p cb q) : RdeMove s t := by
  cases h with
  | construct => exact (hconstruct _ _ _ _ _ _ _ rfl).elim
  | armStart | armPhase => exact (harm _ _ _ _ rfl).elim
  | rdeXfer _ _ hleft => exact .copy _ hleft rfl rfl rfl
  | readError | readReturn | readIntoError | asReadIntoReturn | iterError | iterReturn | outcomeRead | memRead | txWaitRise
  | eotSpurious => exact .keep [_] rfl rfl rfl rfl rfl rfl
  | @deferRun n => exact .keep [.callback n] (by simp) (by simp) (by simp) (by simp) (by simp) rfl
  | deinit => rw [State.stopAll_eq]; exact .keep [] rfl rfl rfl rfl (List.append_nil _).symm rfl
  | rdeConfig | rdeActivate | rdeDeactivate | wreConfig | wreActivate | wreDeactivate | seqDeactivate | seqRestart
  | seqActivate | chFlush | chPut | chGet | chEmpty | csdetEdge | sigSet | sigClear => cases hpart
  | eotStopEngines => exact .keep [] (by simp) (by simp) (by simp) (by simp) (by simp) rfl
  | _ => exact .keep [] (by simp) (by simp) (by simp) (by simp) (by simp) rfl

/-- From `s` to `t` RDE has copied the bytes of its region from its index in `s` up to its index in `t`, and logged each. -/
structure RdeProgress (s t : State) : Prop where
  wf     : t.mem.wf = true
  dst    : t.rde.dst = s.rde.dst
  count  : t.rde.count = s.rde.count
  bound  : t.rde.idx.toNat ≤ s.rde.count.toNat
  inside : ∀ a, t.memRead a ≠ s.memRead a →
    s.rde.idx.toNat ≤ (a - s.rde.dst).toNat ∧ (a - s.rde.dst).toNat < s.rde.count.toNat
  logged : ∃ new, t.log = s.log ++ new ∧ (new.filter Event.isMemw).length + s.rde.idx.toNat = t.rde.idx.toNat

theorem RdeProgress.start (hwf : s.mem.wf = true) (hidx : s.rde.idx.toNat ≤ s.rde.count.toNat) : RdeProgress s s :=
  ⟨hwf, rfl, rfl, hidx, fun _ h => absurd rfl h, [], (List.append_nil _).symm, Nat.zero_add _⟩

/-- One byte copied is the next byte of the region. -/
theorem RdeProgress.copy {b : Byte} (h : RdeProgress s t) (hleft : t.rde.idx.toNat < t.rde.count.toNat)
    (hmem : u.mem = (t.memWrite (rdeAddr t.rde) b).mem) (hrde : u.rde = { t.rde with idx := t.rde.idx + 1 })
    (hlog : u.log = t.log ++ [.memw (rdeAddr t.rde) b]) : RdeProgress s u := by
  obtain ⟨hwf, hdst, hcount, hbound, hinside, new, hnew, hlength⟩ := h
  have hidx : u.rde.idx.toNat = t.rde.idx.toNat + 1 := by rw [hrde]; bv_omega
  refine ⟨?_, by rw [hrde, hdst], by rw [hrde, hcount], by rw [hidx, ← hcount]; exact hleft, fun a ha => ?_,
    new ++ [.memw (rdeAddr t.rde) b], by rw [hlog, hnew, List.append_assoc], ?_⟩
  · rw [hmem]; exact State.memWrite_wf hwf
  · rw [State.memRead_congr hmem, State.memRead_memWrite hwf] at ha
    split at ha
    · have hoffset : a - s.rde.dst = t.rde.idx := by rw [‹a = _›, rdeAddr, hdst, add_sub_cancel_left]
      rw [hoffset, ← hcount]
      exact ⟨by omega, hleft⟩
    · exact hinside a ha
  · rw [List.filter_append, List.length_append, hidx, ← hlength]
    exact Nat.add_right_comm _ 1 _

theorem RdeProgress.move (h : RdeProgress s t) (hmove : RdeMove t u) : RdeProgress s u := by
  cases hmove with
  | copy b hleft hmem hrde hlog => exact h.copy hleft hmem hrde hlog
  | keep more hmem hdst hcount hidx hlog hmore =>
    obtain ⟨hwf, hdst', hcount', hbound, hinside, new, hnew, hlength⟩ := h
    refine ⟨hmem ▸ hwf, hdst.trans hdst', hcount.trans hcount', hidx ▸ hbound, fun a ha => ?_, new ++ more, ?_, ?_⟩
    · exact hinside a (State.memRead_congr hmem a ▸ ha)
    · rw [hlog, hnew, List.append_assoc]
    · rw [List.filter_append, hmore, List.append_nil, hidx, hlength]

end Sys2Proof.Machine
end

section
namespace Sys2Proof.Proofs

open Sys2Proof.Machine

/-- Settles O29: each step of the run copies the next byte of the region or leaves it (42_copy_engines.md R167, 20_memory.md R61). -/
theorem rdeStaysInsideItsRegion : Obligations.RdeStaysInsideItsRegion := by
  intro is s t hsteps hwf hidx hrun
  have ⟨_, hdst, hcount, hbound, hinside, new, hnew, hlength⟩ : RdeProgress s t := by
    refine runSteps_keeps (P := RdeProgress s) (fun _ _ ⟨hwf, hdst, hcount, hbound, hinside, hlogged⟩ =>
      ⟨hwf, hdst, hcount, hbound, hinside, hlogged⟩) (fun _ i _ hi hpart hprogress heffect => ?_) (.start hwf hidx) hrun
    obtain ⟨harm, hconstruct⟩ := hsteps i hi
    exact hprogress.move (heffect.rdeMove hpart harm hconstruct)
  exact ⟨hinside, hdst, hcount, new, hnew, hlength, hbound⟩

end Sys2Proof.Proofs
end

section
/-! The control primitives and the engines' transfers (42_copy_engines.md R151 to R165): where each is enabled, and what it leaves. -/

namespace Sys2Proof.Machine

variable {s t : State} {c : Channel} {w : Word} {rest : List Word} {enabled : Bool}

/-! The primitives -/

theorem primStep_of_enabled (hsound : s.Sound) (he : enabled = true) : primStep s enabled t = .next t := by
  simp [primStep, State.liveAndSound_iff.mpr hsound, he]

theorem primStep_of_not_enabled (he : enabled = false) : primStep s enabled t = .next s := by
  simp [primStep, he, hold]

/-- A primitive without an effect, whether or not the device is live. -/
theorem primStep_self : primStep s enabled s = .next s := by
  unfold primStep hold
  exact ite_self _

/-- An effect that needs a data-out pin, where there is one. -/
theorem primStep_of_duplex {d : Bool} (hsound : s.Sound) (hd : d = true) :
    primStep s true (if d then t else s) = .next t := by
  rw [if_pos hd, primStep_of_enabled hsound rfl]

/-- The same without one: TX and WRE do not exist (log entry 11). -/
theorem primStep_of_not_duplex {d : Bool} (hd : d = false) : primStep s enabled (if d then t else s) = .next s := by
  rw [hd, if_neg Bool.false_ne_true, primStep_self]

/-! The channels -/

/-- Writing a channel writes nothing else. -/
theorem State.setChan_frame (ws : List Word) : s.setChan c ws = { s with ch := (s.setChan c ws).ch } := by cases c <;> rfl

theorem State.chan_setRet {r : Returned} : State.chan { s with ret := r } c = s.chan c := State.chan_congr rfl c

theorem State.not_chanFull_of_room (h : (s.chan c).length < s.params.depth) : (!s.chanFull c) = true := by
  rw [State.chanFull_eq_false.mpr h, Bool.not_false]

theorem State.chanFull_of_full (h : s.params.depth ≤ (s.chan c).length) : s.chanFull c = true := decide_eq_true h

theorem State.chanEmpty_eq_decide : s.chanEmpty c = decide (s.chan c = []) := by
  rw [Bool.eq_iff_iff, State.chanEmpty, List.isEmpty_iff, decide_eq_true_iff]

theorem State.pop_rxout (h : s.ch.rxout = w :: rest) : s.pop .rxout = { s with ch := { s.ch with rxout := rest } } := by
  simp [State.pop, State.setChan, State.chan, h]

/-! RDE.XFER -/

theorem wordByte_eq (w : Word) : wordByte w = w.extractLsb' 0 8 := BitVec.setWidth_eq_extractLsb' (by decide)

theorem State.rdeMayCopy_iff :
    s.rdeMayCopy = true ↔
      s.Sound ∧ s.rde.active = true ∧ s.rde.idx.toNat < s.rde.count.toNat ∧ s.ch.rxout ≠ [] := by
  simp [State.rdeMayCopy, State.liveAndSound_iff, State.chanEmpty, State.chan, and_assoc]

theorem exec_rdeXfer_of_not_mayCopy (h : ¬ s.rdeMayCopy = true) : exec .rdeXfer s = .next s := if_neg h

/-- RDE.XFER takes the head of CH_RXOUT and writes its low byte at RDE's address (R151). -/
theorem exec_rdeXfer_of_cons (hmay : s.rdeMayCopy = true) (hword : s.ch.rxout = w :: rest) :
    exec .rdeXfer s =
      .next { s.memWrite (rdeAddr s.rde) (w.extractLsb' 0 8) with
        ch := { s.ch with rxout := rest }
        rde := { s.rde with idx := s.rde.idx + 1 }
        log := s.log ++ [.memw (rdeAddr s.rde) (w.extractLsb' 0 8)] } := by
  refine Eq.trans (if_pos hmay) ?_
  rw [State.pop_rxout hword, State.headWord_of_cons (c := .rxout) hword, wordByte_eq]
  rfl

/-! WRE.XFER -/

theorem State.wreMayFeed_iff :
    s.wreMayFeed = true ↔
      s.Sound ∧ s.cfg.duplex = true ∧ s.wre.active = true ∧ s.wre.idx.toNat < s.wre.count.toNat ∧
        s.ch.txin.length < s.params.depth := by
  simp [State.wreMayFeed, State.liveAndSound_iff, State.chanFull_eq_false, State.chan, and_assoc]

theorem exec_wreXfer_of_not_mayFeed (h : ¬ s.wreMayFeed = true) : exec .wreXfer s = .next s := if_neg h

theorem exec_wreXfer_of_mayFeed (h : s.wreMayFeed = true) :
    exec .wreXfer s =
      .next { s.wreTake.2.put .txin (byteWord s.wreTake.1) with wre := { s.wre with idx := s.wre.idx + 1 } } :=
  if_pos h

end Sys2Proof.Machine
end

section
namespace Sys2Proof.Proofs

open Sys2Proof.Machine

/-- Settles O23, by RDE.XFER's condition and the law of memory writes (42_copy_engines.md R151). -/
theorem rdeXferCopiesOneByte : Obligations.RdeXferCopiesOneByte := by
  refine ⟨fun s w rest hsound hactive hleft hword hwf => ?_, fun s hnot => exec_rdeXfer_of_not_mayCopy fun hmay => ?_⟩
  · have hmay := State.rdeMayCopy_iff.mpr ⟨hsound, hactive, hleft, by simp [hword]⟩
    have hread (a : Addr) := State.memRead_memWrite (a := rdeAddr s.rde) (a' := a) (b := w.extractLsb' 0 8) hwf
    exact ⟨_, exec_rdeXfer_of_cons hmay hword, (hread _).trans (if_pos rfl), fun a ha => (hread a).trans (if_neg ha), rfl⟩
  · obtain ⟨hsound, hactive, hleft, hword⟩ := State.rdeMayCopy_iff.mp hmay
    obtain h | h | h | h := hnot
    · exact h hsound
    · simp [hactive] at h
    · omega
    · exact hword h

/-- Settles O24, each from its register update; past its data WRE feeds the free byte that `wreTake` draws (42_copy_engines.md R152 to
R158). -/
theorem enginePrimitives : Obligations.EnginePrimitives := by
  refine ⟨fun _ _ _ hsound => primStep_of_enabled hsound rfl, fun _ hsound => primStep_of_enabled hsound rfl,
    fun _ hsound => primStep_of_enabled hsound rfl, fun _ _ _ hsound hd => primStep_of_duplex hsound hd,
    fun s hsound hd hactive hleft hroom _ => ?_, fun _ hsound hd => primStep_of_duplex hsound hd,
    fun _ hsound hd => primStep_of_duplex hsound hd, fun i s hd hi => ?_⟩
  · obtain ⟨n, hn⟩ := s.wreTake_snd
    refine ⟨s.wreTake.1, n, ?_⟩
    rw [exec_wreXfer_of_mayFeed (State.wreMayFeed_iff.mpr ⟨hsound, hd, hactive, hleft, hroom⟩), hn]
    rfl
  · obtain ⟨data, n, rfl⟩ | rfl | rfl := hi
    · exact primStep_of_not_duplex hd
    · exact primStep_of_not_duplex hd
    · exact primStep_of_not_duplex hd

/-- Settles O25, by WRE.XFER's condition (42_copy_engines.md R155). -/
theorem wreXferFeedsOneByte : Obligations.WreXferFeedsOneByte := by
  refine ⟨fun s b hsound hd hactive hleft hroom hbyte => ?_, fun s hnot => exec_wreXfer_of_not_mayFeed fun hmay => ?_⟩
  · rw [exec_wreXfer_of_mayFeed (State.wreMayFeed_iff.mpr ⟨hsound, hd, hactive, hleft, hroom⟩), State.wreTake_of_some hbyte]
    rfl
  · obtain ⟨hsound, hd, hactive, hleft, hroom⟩ := State.wreMayFeed_iff.mp hmay
    obtain h | h | h | h | h := hnot
    · exact h hsound
    · simp [hd] at h
    · simp [hactive] at h
    · omega
    · omega

/-- Settles O26, each from its register update (42_copy_engines.md R159, R160, R161). -/
theorem sequencerPrimitives : Obligations.SequencerPrimitives :=
  ⟨fun _ hsound => ⟨primStep_of_enabled hsound rfl, primStep_of_enabled hsound rfl, primStep_of_enabled hsound rfl⟩,
    fun _ hsound hd => ⟨primStep_of_duplex hsound hd, primStep_of_duplex hsound hd, primStep_of_duplex hsound hd⟩,
    fun _ hd => ⟨primStep_of_not_duplex hd, primStep_of_not_duplex hd, primStep_of_not_duplex hd⟩⟩

/-- Settles O27: every primitive on a channel writes that channel through `setChan` (42_copy_engines.md R162 to R165). -/
theorem channelPrimitives : Obligations.ChannelPrimitives := by
  intro c s hsound
  refine ⟨⟨_, primStep_of_enabled hsound rfl, s.chan_flush c, fun _ hc => s.chan_setChan_of_ne _ hc, s.setChan_frame _⟩,
    fun w hroom => ⟨_, primStep_of_enabled hsound (State.not_chanFull_of_room hroom), s.chan_put c w,
      fun _ hc => s.chan_setChan_of_ne _ hc, s.setChan_frame _⟩,
    fun w hfull => primStep_of_not_enabled (by rw [State.chanFull_of_full hfull, Bool.not_true]),
    fun w rest hword => ?_, fun hempty => primStep_of_not_enabled (State.not_chanEmpty_of_nil hempty), ?_⟩
  · refine ⟨_, primStep_of_enabled hsound (State.not_chanEmpty_of_cons hword), ?_, fun c' hc => ?_, ?_⟩
    · exact State.chan_setRet.trans ((s.chan_pop c).trans (congrArg List.tail hword))
    · exact State.chan_setRet.trans (s.chan_setChan_of_ne _ hc)
    · rw [State.headWord_of_cons hword, State.pop, s.setChan_frame]
  · rw [← State.chanEmpty_eq_decide]
    exact primStep_of_enabled hsound rfl

end Sys2Proof.Proofs
end

section
/-! ARM (42_copy_engines.md R166): which phase an ARM step takes, and the checks of phase A1 in the order of 60_exceptions.md R319. -/

namespace Sys2Proof.Machine

variable {s : State} {t : TaskId} {c : Command} {k : ArmPhase} {dst : Addr} {b : Word} {mode : ArmMode}

/-- The next ARM step of task t, with these operands, is the first of command c: t starts the command ARM, or its read command has
come to its ARM. -/
def State.AtArm (s : State) (t : TaskId) (c : Command) (dst : Addr) (b : Word) (mode : ArmMode) : Prop :=
  (s.TaskFree t ∧ c = .arm dst b mode) ∨ s.TaskAt t c (.arming .a1)

/-- The phase that a task in its command's ARM takes does not depend on the operands of the step (log entry 3). -/
theorem exec_arm_of_taskAt (h : s.TaskAt t c (.arming k)) : exec (.arm t dst b mode) s = armPhase t c k s := by
  obtain ⟨hfault, hphase, hholder, htask⟩ := h
  have hcontinue : s.mayContinue t = true := State.mayContinue_iff.mpr ⟨hfault, hphase, hholder⟩
  have hstart : ¬ s.mayStart t = true := by simp [State.mayStart, hholder]
  simp only [exec, execArm, if_neg hstart, if_pos hcontinue, htask]

theorem exec_arm_of_atArm (h : s.AtArm t c dst b mode) : exec (.arm t dst b mode) s = armA1 t c s := by
  obtain ⟨hfree, rfl⟩ | hat := h
  · exact if_pos (State.mayStart_iff.mpr hfree)
  · exact exec_arm_of_taskAt hat

theorem State.AtArm.fault_eq_none (h : s.AtArm t c dst b mode) : s.fault = none := by
  obtain ⟨⟨hfault, _⟩, _⟩ | ⟨hfault, _⟩ := h <;> exact hfault

theorem State.AtArm.eotPhase_eq_zero (h : s.AtArm t c dst b mode) : s.eotPhase = 0 := by
  obtain ⟨⟨_, hphase, _⟩, _⟩ | ⟨_, hphase, _⟩ := h <;> exact hphase

/-! The checks -/

theorem armFault_of_unbuilt (h : s.life = .unbuilt) : armFault c s = some .notConstructed := by
  simp [armFault, State.lifeCheck, h]

theorem armFault_of_dead (h : s.life = .dead) : armFault c s = some .useAfterDeinit := by
  simp [armFault, State.lifeCheck, h]

theorem armFault_of_waiter (hlive : s.life = .live) (h : s.sig.waiter ≠ none) : armFault c s = some .overlapArm := by
  simp [armFault, State.lifeCheck, hlive, Option.isSome_iff_ne_none, h]

/-- On a live device with no waiter the budget's range is all that is checked (00_scope.md R7). -/
theorem armFault_of_live (hlive : s.life = .live) (h : s.sig.waiter = none) :
    armFault c s =
      if armBudget s.cfg c < 1 ∨ maxBudget s.params.w < armBudget s.cfg c then some .budgetRange else none := by
  simp only [armFault, State.lifeCheck, hlive, h, Option.isSome_none, Bool.false_eq_true, if_false]

theorem armFault_eq_none (hlive : s.life = .live) (h : s.sig.waiter = none) (hlow : 1 ≤ armBudget s.cfg c)
    (hhigh : armBudget s.cfg c ≤ 2 ^ s.params.w - 2) : armFault c s = none := by
  rw [armFault_of_live hlive h, if_neg (by unfold maxBudget; omega)]

theorem armA1_of_fault {f : FaultCode} (hnone : s.fault = none) (h : armFault c s = some f) :
    armA1 t c s = .next { s with fault := some f } := by
  simp [armA1, h, raise, hnone]

theorem armA1_of_no_callback (h : armFault c s = none) (hmode : armMode c = .callback) (hcb : s.cfg.hasCb = false) :
    armA1 t c s = .next ((s.endCommand t).logEvent (.error t .noCallback)) := by
  simp [armA1, h, hmode, hcb, returnError]

theorem armA1_of_pass (h : armFault c s = none) (hmode : armMode c = .callback → s.cfg.hasCb = true) :
    armA1 t c s = .next (s.stopAll.flushAll.atPhase t c (.arming .a2)) := by
  have hok : ¬ (armMode c = .callback ∧ s.cfg.hasCb = false) := fun ⟨hm, hcb⟩ => by simp [hmode hm] at hcb
  simp only [armA1, h, if_neg hok]

end Sys2Proof.Machine
end

section
namespace Sys2Proof.Proofs

open Sys2Proof.Machine

/-- Settles O30: the checks of phase A1, in the order `armFault` makes them (60_exceptions.md R319). -/
theorem armChecksInOrder : Obligations.ArmChecksInOrder := by
  intro s t c dst b mode (hat : s.AtArm t c dst b mode)
  rw [exec_arm_of_atArm hat]
  have hnone := hat.fault_eq_none
  refine ⟨fun hlife => armA1_of_fault hnone (armFault_of_unbuilt hlife),
    fun hlife => armA1_of_fault hnone (armFault_of_dead hlife),
    fun hlife hwaiter => armA1_of_fault hnone (armFault_of_waiter hlife hwaiter),
    fun hlife hwaiter hrange => armA1_of_fault hnone ((armFault_of_live hlife hwaiter).trans (if_pos hrange)),
    fun hlife hwaiter hlow hhigh hmode hcb hwf => ?_⟩
  exact ⟨_, armA1_of_no_callback (armFault_eq_none hlife hwaiter hlow hhigh) hmode hcb, rfl,
    fun _ => State.task_endCommand hwf⟩

/-- Settles O31, by what stopping every agent leaves (42_copy_engines.md R166 phase A1). -/
theorem armFirstPhaseResets : Obligations.ArmFirstPhaseResets := by
  intro s t c dst b mode (hat : s.AtArm t c dst b mode) hwf hlife hwaiter hlow hhigh hmode
  rw [exec_arm_of_atArm hat, armA1_of_pass (armFault_eq_none hlife hwaiter hlow hhigh) hmode, State.stopAll_eq]
  exact ⟨_, rfl, rfl, fun _ => State.task_atPhase hwf⟩

end Sys2Proof.Proofs
end

section
/-! O33: a full CH_RXIN. It holds phase A7; with the handler at H2 it holds the handler, and no other agent but RX takes a word
from it (70_reset_and_hazards.md R349). -/

namespace Sys2Proof.Machine

variable {s t : State} {i : Instr}

/-- The handler at H2, RX inactive, and no room in CH_RXIN. -/
structure State.Deadlocked (s : State) : Prop where
  phase : s.eotPhase = 2
  rx    : s.rx.active = false
  full  : s.params.depth ≤ s.ch.rxin.length

/-- Where the handler is at H2 no step of host context has an effect, and CH_RXIN and RX's activity are the host's, RX's and the
handler's: what an agent's step leaves in a deadlock. -/
theorem Effect.deadlocked (h : Effect s i t) (hpart : i.isPart = false) (hs : s.Deadlocked) :
    t.eotPhase = 2 ∧ t.rx.active = false ∧ t.ch.rxin = s.ch.rxin := by
  obtain ⟨hphase, hrx, hfull⟩ := hs
  cases h with
  | construct hk | armStart hk | armPhase hk | write hk | readError hk | read hk | readSpin hk | readReturn hk
  | readIntoError hk | readInto hk | readIntoReturn hk | asReadInto hk | asReadIntoReturn hk | iterError hk | iterStep hk
  | iterReturn hk | deinit hk | outcomeRead hk | outcomePhase hk | memRead hk | sigWait hk =>
    have ⟨_, hidle, _⟩ := hk
    simp [hphase] at hidle
  | sigResume _ hidle | sigPoll _ hidle | deferRun _ hidle => simp [hphase] at hidle
  | eotEntry _ _ _ hat | eotStopEngines _ hat | eotSpurious _ hat | eotCheck _ hat | eotAccount _ hat | eotStopSeq _ hat
  | eotSignal _ hat | eotCallback _ hat | eotLeave _ hat => simp [hphase] at hat
  | eotPlaceholder _ _ hroom => exact absurd hfull (Nat.not_le.mpr (State.chanFull_eq_false.mp hroom))
  | rxAwaitBudget hon | rxAwaitCsHigh hon | rxAwaitCsLow hon | rxWaitRise hon | rxWaitFall hon | rxKeep hon | rxDiscard hon
  | rxEnd hon | rxReport hon => simp [State.rxReady, hrx] at hon
  | rdeConfig | rdeActivate | rdeDeactivate | wreConfig | wreActivate | wreDeactivate | seqDeactivate | seqRestart
  | seqActivate | chFlush | chPut | chGet | chEmpty | csdetEdge | sigSet | sigClear => cases hpart
  | txAwaitCsHigh | txAwaitCsLow | txLoad | txWaitRise | txWaitFall | rdeXfer | wreXfer | wireSck | wireMosi | wireSample =>
    exact ⟨hphase, hrx, rfl⟩
  | wireCs => exact ⟨by simpa using hphase, by simpa using hrx, by simp⟩

end Sys2Proof.Machine
end

section
namespace Sys2Proof.Proofs

open Sys2Proof.Machine

/-- Settles O33: phase A7 tests CH_RXIN first, and a deadlock is kept by every step (42_copy_engines.md R163, R166 phase A7,
70_reset_and_hazards.md R349). -/
theorem armHoldsOnFullChannel : Obligations.ArmHoldsOnFullChannel := by
  refine ⟨fun s t c dst b mode hat hfull => ?_, fun is s t hphase hrx hfull hrun => ?_⟩
  · rw [exec_arm_of_taskAt hat]
    exact if_pos (State.chanFull_of_full (c := .rxin) hfull)
  · have ⟨⟨hphase, hrx, _⟩, hrxin⟩ : t.Deadlocked ∧ t.ch.rxin = s.ch.rxin := by
      refine runSteps_keeps (P := fun u => u.Deadlocked ∧ u.ch.rxin = s.ch.rxin)
        (fun _ _ ⟨⟨hphase, hrx, hfull⟩, hrxin⟩ => ⟨⟨hphase, hrx, hfull⟩, hrxin⟩)
        (fun u _ v _ hpart ⟨hs, hrxin⟩ heffect => ?_) ⟨⟨hphase, hrx, hfull⟩, rfl⟩ hrun
      obtain ⟨hphase, hrx, hsame⟩ := heffect.deadlocked hpart hs
      exact ⟨⟨hphase, hrx, by rw [hsame, heffect.params_eq]; exact hs.full⟩, hsame.trans hrxin⟩
    exact ⟨hphase, hrx, hrxin⟩

end Sys2Proof.Proofs
end

section
/-! O32: ARM's seven phases in a row. No phase reads the task table or HOLDER, so the run is that of the phases' own work
(`State.armed`), with the task's entry set at the end (`runSteps_arm`); what the work leaves is `State.prepared_eq` and the budget. -/

namespace Sys2Proof.Machine

variable {β : Type} [DecidableEq β] {d : β} {s t : State} {k : TaskId} {c : Command} {p q : Phase}

/-! Writing one entry twice -/

theorem Tab.set_of_below {j : Nat} {v : β} {m : List (Nat × β)} (h : ∀ e ∈ m, j < e.1) :
    Tab.set d m j v = Tab.cons d j v m := by
  cases m with
  | nil => rfl
  | cons e m => exact if_pos (h e List.mem_cons_self)

theorem Tab.set_cons {j : Nat} {v w : β} {m : List (Nat × β)} (h : ∀ e ∈ m, j < e.1) :
    Tab.set d (Tab.cons d j v m) j w = Tab.cons d j w m := by
  unfold Tab.cons
  split
  · exact Tab.set_of_below h
  · exact (if_neg (Nat.lt_irrefl j)).trans (if_pos rfl)

/-- The second of two writes of one entry counts. -/
theorem Tab.set_set {j : Nat} {v w : β} {m : List (Nat × β)} (hm : Tab.wf d m = true) :
    Tab.set d (Tab.set d m j v) j w = Tab.set d m j w := by
  induction m with
  | nil => exact Tab.set_cons (by simp)
  | cons e m ih =>
    obtain ⟨j₀, v₀⟩ := e
    obtain ⟨_, hlow, hm'⟩ := Tab.wf_cons.mp hm
    rcases Nat.lt_trichotomy j j₀ with hlt | rfl | hgt
    · have hbelow : ∀ e ∈ (j₀, v₀) :: m, j < e.1 := List.forall_mem_cons.mpr ⟨hlt, fun e he => hlt.trans (hlow e he)⟩
      rw [Tab.set_of_below hbelow, Tab.set_of_below hbelow, Tab.set_cons hbelow]
    · simp only [Tab.set, Nat.lt_irrefl, if_false, if_true]
      exact Tab.set_cons hlow
    · simp only [Tab.set, Nat.lt_asymm hgt, Nat.ne_of_gt hgt, if_false, ih hm']

theorem State.atPhase_atPhase (hwf : Tab.wf .idle s.tasks = true) : (s.atPhase k c p).atPhase k c q = s.atPhase k c q := by
  simp only [State.atPhase, State.setTask, Tab.set_set hwf]

theorem armDone_atPhase (hwf : Tab.wf .idle s.tasks = true) : armDone k c (s.atPhase k c p) = armDone k c s := by
  unfold armDone
  split
  · exact State.atPhase_atPhase hwf
  · simp only [State.endCommand, State.atPhase, State.setTask, Tab.set_set hwf]

/-- What the task is at after its ARM (44_facade.md R212 to R215). -/
def afterArmTask (c : Command) : TaskState :=
  match afterArm c with
  | none => .idle
  | some p => .busy c p

/-- HOLDER after task k's ARM. -/
def afterArmHolder (k : TaskId) (c : Command) : Option TaskId :=
  match afterArm c with
  | none => none
  | some _ => some k

theorem task_armDone {j : TaskId} (hwf : Tab.wf .idle s.tasks = true) :
    (armDone k c s).task j = if j = k then afterArmTask c else s.task j := by
  unfold armDone afterArmTask
  cases afterArm c with
  | none => exact State.task_endCommand hwf
  | some p => exact State.task_atPhase hwf

theorem armDone_holder : (armDone k c s).holder = afterArmHolder k c := by
  unfold armDone afterArmHolder
  cases afterArm c with
  | none => exact State.endCommand_holder ..
  | some p => exact State.atPhase_holder ..

/-! The work of the phases -/

/-- The stage has something to send on this device (phase A4). -/
def State.sends (s : State) : Bool := s.cfg.duplex && s.stg.present && s.stg.reps != 0

theorem State.sends_iff : s.sends = true ↔ s.cfg.duplex = true ∧ s.stg.present = true ∧ s.stg.reps ≠ 0 := by
  simp [State.sends, and_assoc]

theorem State.duplex_of_sends (h : s.sends = true) : s.cfg.duplex = true := (State.sends_iff.mp h).1

/-- The stage after phase A4: a repeat is used up where something is sent, unless the count is -1. -/
def State.armedStg (s : State) : Stage :=
  if s.sends then { s.stg with reps := if 0 < s.stg.reps then s.stg.reps - 1 else s.stg.reps } else s.stg

theorem armA4_eq :
    armA4 c s = { s with
      wre :=
        if s.sends then ⟨s.wre.active, true, s.stg.bytes, sendCount (armBudget s.cfg c) s.stg.bytes, 0⟩
        else { s.wre with cfg := false }
      stg := s.armedStg } := by
  unfold State.armedStg
  by_cases h : s.sends = true
  · refine Eq.trans (if_pos h) ?_
    rw [State.configWre, if_pos (State.duplex_of_sends h), if_pos h, if_pos h]
  · refine Eq.trans (if_neg h) ?_
    rw [if_neg h, if_neg h]

/-- After phase A5 WRE runs where the stage has something to send, and RDE runs always. -/
theorem armA5_armA4_eq :
    armA5 (armA4 c s) = { s with
      rde := { s.rde with active := true }
      wre :=
        if s.sends then ⟨true, true, s.stg.bytes, sendCount (armBudget s.cfg c) s.stg.bytes, 0⟩
        else { s.wre with cfg := false }
      stg := s.armedStg } := by
  rw [armA4_eq, armA5_eq]
  by_cases h : s.sends = true
  · simp [h, State.duplex_of_sends h]
  · simp [h]

theorem armA4_atPhase : armA4 c (s.atPhase k c p) = (armA4 c s).atPhase k c p := by rw [armA4_eq, armA4_eq]; rfl

theorem armA5_atPhase : armA5 (s.atPhase k c p) = (armA5 s).atPhase k c p := by rw [armA5_eq, armA5_eq]; rfl

theorem armA6_atPhase : armA6 (s.atPhase k c p) = (armA6 s).atPhase k c p := by rw [armA6_eq, armA6_eq]; rfl

theorem State.atPhase_put {ch : Channel} {w : Word} : (s.atPhase k c p).put ch w = (s.put ch w).atPhase k c p := by
  cases ch <;> rfl

theorem armPhase_a7_of_room (h : s.chanFull .rxin = false) :
    armPhase k c .a7 s = .next (armDone k c (s.put .rxin (BitVec.ofNat 32 (armBudget s.cfg c)))) := by
  simp [armPhase, armA7, h]

/-- What phases A1 to A6 do, but for the task's own progress. -/
def State.prepared (s : State) (k : TaskId) (c : Command) : State :=
  armA6 (armA5 (armA4 c (armA3 c (armA2 k c s.stopAll.flushAll))))

/-- What the seven phases do, but for the task's own progress. -/
def State.armed (s : State) (k : TaskId) (c : Command) : State :=
  (s.prepared k c).put .rxin (BitVec.ofNat 32 (armBudget s.cfg c))

/-- A restart does not see whether TX was stopped before. -/
theorem restarted_of_stopped (d : Bool) (restarted stopped tx : TxRegs) :
    (if d then restarted else if d then stopped else tx) = if d then restarted else tx := by cases d <;> rfl

/-- WRE's registers after phases A1 to A5. -/
def State.armedWre (s : State) (c : Command) : WreRegs :=
  if s.sends then ⟨true, true, s.stg.bytes, sendCount (armBudget s.cfg c) s.stg.bytes, 0⟩
  else { (if s.cfg.duplex then { s.wre with active := false } else s.wre) with cfg := false }

theorem State.prepared_eq :
    s.prepared k c = { s with
      rde := ⟨true, armDst s.cfg c, BitVec.ofNat 32 (armBudget s.cfg c), 0⟩
      wre := s.armedWre c
      rx := ⟨0, 0, 0, 0, true⟩
      tx := if s.cfg.duplex then ⟨0, 0, 0, true⟩ else s.tx
      ch := ⟨[], [], []⟩
      stg := s.armedStg
      xfer := ⟨some (BitVec.ofNat 32 (armBudget s.cfg c)), armDst s.cfg c, decide (armMode c = ArmMode.callback)⟩
      outcome := none
      sig := ⟨false, s.sig.waiter⟩
      window := some ⟨k, decide (armMode c = ArmMode.callback)⟩
      deferOwn := false } := by
  rw [State.prepared, armA6_eq, armA5_armA4_eq, State.stopAll_eq]
  congr 1
  exact restarted_of_stopped ..

/-! The run -/

/-- No phase after the first needs more to be taken by its task than this (44_facade.md R205). -/
structure State.ArmReady (s : State) : Prop where
  fault    : s.fault = none
  eotPhase : s.eotPhase = 0
  tasks    : Tab.wf .idle s.tasks = true

theorem State.ArmReady.congr (h : s.ArmReady) (hfault : t.fault = s.fault) (hphase : t.eotPhase = s.eotPhase)
    (htasks : t.tasks = s.tasks) : t.ArmReady :=
  ⟨hfault.trans h.fault, hphase.trans h.eotPhase, htasks ▸ h.tasks⟩

theorem State.ArmReady.taskAt (h : s.ArmReady) : (s.atPhase k c p).TaskAt k c p :=
  ⟨h.fault, h.eotPhase, rfl, (State.task_atPhase h.tasks).trans (if_pos rfl)⟩

variable {dst : Addr} {b : Word} {mode : ArmMode} {is : List Instr} {n m : ArmPhase} {f : State → State}

/-- A phase whose work is `f` and that leaves the task at phase `m`. -/
theorem runSteps_armPhase (hs : s.ArmReady) (hf : (f s).ArmReady)
    (hphase : ∀ u, armPhase k c n u = .next ((f u).atPhase k c (.arming m)))
    (hcomm : f (s.atPhase k c (.arming n)) = (f s).atPhase k c (.arming n)) :
    runSteps (.arm k dst b mode :: is) (s.atPhase k c (.arming n)) = runSteps is ((f s).atPhase k c (.arming m)) := by
  refine runSteps_cons ?_
  rw [takeStep_of_not_part rfl, exec_arm_of_taskAt hs.taskAt, hphase, hcomm, State.atPhase_atPhase hf.tasks]

/-- From phase A2 to phase A7 (R166). -/
theorem runSteps_arm_setup (hs : s.stopAll.flushAll.ArmReady) :
    (s.prepared k c).ArmReady ∧
      runSteps (List.replicate 5 (.arm k dst b mode) ++ is) (s.stopAll.flushAll.atPhase k c (.arming .a2)) =
        runSteps is ((s.prepared k c).atPhase k c (.arming .a7)) := by
  have h2 : (armA2 k c s.stopAll.flushAll).ArmReady := hs.congr rfl rfl rfl
  have h3 : (armA3 c (armA2 k c s.stopAll.flushAll)).ArmReady := h2.congr rfl rfl rfl
  have h4 : (armA4 c (armA3 c (armA2 k c s.stopAll.flushAll))).ArmReady := by
    rw [armA4_frame]; exact h3.congr rfl rfl rfl
  have h5 : (armA5 (armA4 c (armA3 c (armA2 k c s.stopAll.flushAll)))).ArmReady := by
    rw [armA5_eq]; exact h4.congr rfl rfl rfl
  have h6 : (s.prepared k c).ArmReady := by
    rw [State.prepared, armA6_eq]; exact h5.congr rfl rfl rfl
  refine ⟨h6, ?_⟩
  unfold State.prepared at h6 ⊢
  refine Eq.trans (runSteps_armPhase (f := armA2 k c) hs h2 (fun _ => rfl) rfl) ?_
  refine Eq.trans (runSteps_armPhase (f := armA3 c) h2 h3 (fun _ => rfl) rfl) ?_
  refine Eq.trans (runSteps_armPhase (f := armA4 c) h3 h4 (fun _ => rfl) armA4_atPhase) ?_
  refine Eq.trans (runSteps_armPhase (f := armA5) h4 h5 (fun _ => rfl) armA5_atPhase) ?_
  exact runSteps_armPhase (f := armA6) h5 h6 (fun _ => rfl) armA6_atPhase

/-- Seven steps from the start of the ARM do the work of its phases and end the ARM (R166, R168). -/
theorem runSteps_arm (hat : s.AtArm k c dst b mode) (hwf : Tab.wf .idle s.tasks = true) (hpass : armFault c s = none)
    (hmode : armMode c = .callback → s.cfg.hasCb = true) (hdepth : 1 ≤ s.params.depth) :
    runSteps (List.replicate 7 (.arm k dst b mode)) s = .next (armDone k c (s.armed k c)) := by
  have hfirst : takeStep (.arm k dst b mode) s = .next (s.stopAll.flushAll.atPhase k c (.arming .a2)) := by
    rw [takeStep_of_not_part rfl, exec_arm_of_atArm hat, armA1_of_pass hpass hmode]
  have hs : s.stopAll.flushAll.ArmReady := by
    rw [State.stopAll_eq]; exact ⟨hat.fault_eq_none, hat.eotPhase_eq_zero, hwf⟩
  obtain ⟨hprepared, hsetup⟩ := runSteps_arm_setup (dst := dst) (b := b) (mode := mode) (is := [.arm k dst b mode]) hs
  have hroom : ((s.prepared k c).atPhase k c (.arming .a7)).chanFull .rxin = false := by
    rw [State.chanFull_eq_false, State.prepared_eq]; exact hdepth
  have hcfg : (s.prepared k c).cfg = s.cfg := by rw [State.prepared_eq]
  have hlast : takeStep (.arm k dst b mode) ((s.prepared k c).atPhase k c (.arming .a7)) =
      .next (armDone k c (s.armed k c)) := by
    rw [takeStep_of_not_part rfl, exec_arm_of_taskAt hprepared.taskAt, armPhase_a7_of_room hroom, State.atPhase_put,
      armDone_atPhase (by simpa using hprepared.tasks), State.atPhase_cfg, hcfg, State.armed]
  refine (runSteps_cons hfirst).trans (hsetup.trans ?_)
  rw [runSteps_cons hlast, runSteps]

end Sys2Proof.Machine
end

section
namespace Sys2Proof.Proofs

open Sys2Proof.Machine

/-- Settles O32, by the run of the seven phases and what their work leaves (42_copy_engines.md R166, R168). -/
theorem armRunsToCompletion : Obligations.ArmRunsToCompletion := by
  intro s t c dst b mode (hat : s.AtArm t c dst b mode) hwf hlife hwaiter _ hdepth hlow hhigh hmode
  have hrun := runSteps_arm hat hwf (armFault_eq_none hlife hwaiter hlow hhigh) hmode hdepth
  have hframe := armDone_frame (k := t) (c := c) (s := s.armed t c)
  have hholder := armDone_holder (k := t) (c := c) (s := s.armed t c)
  have htask (j : TaskId) : (armDone t c (s.armed t c)).task j = if j = t then afterArmTask c else s.task j := by
    have htasks : (s.armed t c).tasks = s.tasks := by rw [State.armed, State.prepared_eq]; rfl
    rw [task_armDone (htasks ▸ hwf), State.task, htasks, State.task]
  generalize armDone t c (s.armed t c) = u at *
  rw [State.armed, State.prepared_eq, hwaiter] at hframe
  refine ⟨u, hrun, by rw [hframe]; rfl, by rw [hframe]; rfl, by rw [hframe]; rfl, by rw [hframe]; rfl, by rw [hframe]; rfl,
    fun hsends => ?_, fun hduplex hnot => ?_, fun hsimplex => ?_, htask, hholder, by rw [hframe]; rfl⟩
  · have hsends := State.sends_iff.mpr hsends
    rw [hframe]
    exact ⟨if_pos hsends, if_pos hsends⟩
  · have hnot : ¬ s.sends = true := fun hsends => hnot (State.sends_iff.mp hsends).2
    rw [hframe]
    exact ⟨(if_neg hnot).trans (by rw [if_pos hduplex]), if_neg hnot⟩
  · have hnot : ¬ s.sends = true := fun hsends => by simp [State.duplex_of_sends hsends] at hsimplex
    rw [hframe]
    exact ⟨(if_neg hnot).trans (by rw [hsimplex]; rfl), if_neg hnot⟩

end Sys2Proof.Proofs
end

section
/-! The End-of-Transfer handler (43_end_of_transfer.md R182 to R189): each of its steps at its phase, and that it holds at another. -/

namespace Sys2Proof.Machine

variable {s t : State} {n : Nibble} {enabled guard : Bool} {out : Out} {w b : Word} {rest : List Word}

theorem eotStep_of_enabled (hsound : s.Sound) (hcode : phaseReserved s.eotPhase = false) (he : enabled = true) :
    eotStep s enabled out = out := by
  simp [eotStep, State.liveAndSound_iff.mpr hsound, hcode, he]

theorem eotStep_of_not_enabled (hcode : s.eotPhase.toNat < 8) (he : enabled = false) : eotStep s enabled out = .next s := by
  simp [eotStep, phaseReserved, Nat.not_le.mpr hcode, he, hold]

/-- A handler step at its phase. -/
theorem eotStep_of_phase (hsound : s.Sound) (hphase : s.eotPhase = n) (hn : phaseReserved n = false) :
    eotStep s (s.eotPhase == n) out = out :=
  eotStep_of_enabled hsound (hphase ▸ hn) (beq_iff_eq.mpr hphase)

/-- A handler step at another phase. -/
theorem eotStep_of_other_phase (hcode : s.eotPhase.toNat < 8) (hphase : s.eotPhase ≠ n) :
    eotStep s (s.eotPhase == n) out = .next s :=
  eotStep_of_not_enabled hcode (beq_eq_false_iff_ne.mpr hphase)

/-- A handler step at its phase with a condition on a channel besides. -/
theorem eotStep_of_phase_and_guard (hsound : s.Sound) (hphase : s.eotPhase = n) (hn : phaseReserved n = false)
    (hguard : guard = true) : eotStep s (s.eotPhase == n && guard) out = out :=
  eotStep_of_enabled hsound (hphase ▸ hn) (by rw [beq_iff_eq.mpr hphase, hguard]; rfl)

/-- The same at another phase, or where the condition fails. -/
theorem eotStep_of_phase_or_guard (hcode : s.eotPhase.toNat < 8) (h : s.eotPhase ≠ n ∨ guard = false) :
    eotStep s (s.eotPhase == n && guard) out = .next s :=
  eotStep_of_not_enabled hcode (Bool.and_eq_false_iff.mpr (h.imp_left beq_eq_false_iff_ne.mpr))

/-! The steps at their phases -/

/-- Entry takes the pending edge (R182). -/
theorem exec_eotEntry (hsound : s.Sound) (hbound : s.irq.bound = true) (hpending : s.irq.pending = true)
    (hphase : s.eotPhase = 0) : exec .eotEntry s = .next s.enterHandler :=
  eotStep_of_enabled hsound (hphase ▸ rfl) (by simp [hbound, hpending, hphase])

theorem exec_eotEntry_of_not (hcode : s.eotPhase.toNat < 8)
    (h : s.irq.bound = false ∨ s.irq.pending = false ∨ s.eotPhase ≠ 0) : exec .eotEntry s = .next s := by
  refine eotStep_of_not_enabled hcode ?_
  obtain hbound | hpending | hphase := h
  · simp [hbound]
  · simp [hpending]
  · rw [beq_eq_false_iff_ne.mpr hphase, Bool.and_false]

/-- H1 stops both engines, WRE where the device has one (R183). -/
theorem exec_eotStopEngines (hsound : s.Sound) (hphase : s.eotPhase = 1) :
    exec .eotStopEngines s =
      .next { s with
        rde := { s.rde with active := false }
        wre := if s.cfg.duplex then { s.wre with active := false } else s.wre
        eotPhase := 2 } := by
  refine (eotStep_of_phase hsound hphase rfl).trans ?_
  rcases hd : s.cfg.duplex <;> simp [State.deactivateRde, State.deactivateWre, hd]

/-- H2 puts the zero placeholder (R184). -/
theorem exec_eotPlaceholder (hsound : s.Sound) (hphase : s.eotPhase = 2) (hroom : s.ch.rxin.length < s.params.depth) :
    exec .eotPlaceholder s = .next { s with ch := { s.ch with rxin := s.ch.rxin ++ [0] }, eotPhase := 3 } :=
  eotStep_of_phase_and_guard hsound hphase rfl (State.not_chanFull_of_room (c := .rxin) hroom)

/-- H3 without a word is the spurious path (R185). -/
theorem exec_eotCheck_of_nil (hsound : s.Sound) (hphase : s.eotPhase = 3) (hword : s.ch.rxout = []) :
    exec .eotCheck s = .next { s with log := s.log ++ [.spurious], eotPhase := 0 } :=
  (eotStep_of_phase hsound hphase rfl).trans (if_pos (List.isEmpty_iff.mpr hword))

theorem exec_eotCheck_of_word (hsound : s.Sound) (hphase : s.eotPhase = 3) (hword : s.ch.rxout ≠ []) :
    exec .eotCheck s = .next { s with eotPhase := 4 } := by
  have hsome : ¬ s.chanEmpty .rxout = true := Bool.not_eq_true _ ▸ State.chanEmpty_eq_false.mpr hword
  exact (eotStep_of_phase hsound hphase rfl).trans (if_neg hsome)

/-- H4 takes the report (R186). -/
theorem exec_eotAccount (hsound : s.Sound) (hphase : s.eotPhase = 4) (hword : s.ch.rxout = w :: rest)
    (hb : s.xfer.b = some b) :
    exec .eotAccount s =
      .next { s with ch := { s.ch with rxout := rest }, outcome := some (countOf s.params.w b w), eotPhase := 5 } := by
  refine (eotStep_of_phase_and_guard hsound hphase rfl (State.not_chanEmpty_of_cons (c := .rxout) hword)).trans ?_
  rw [hb, State.pop_rxout hword, State.headWord_of_cons (c := .rxout) hword]

/-- H5 stops both sequencers, TX where the device has one (R187). -/
theorem exec_eotStopSeq (hsound : s.Sound) (hphase : s.eotPhase = 5) :
    exec .eotStopSeq s =
      .next { s with
        rx := { s.rx with active := false }
        tx := if s.cfg.duplex then { s.tx with active := false } else s.tx
        eotPhase := 6 } := by
  refine (eotStep_of_phase hsound hphase rfl).trans ?_
  rcases hd : s.cfg.duplex <;> simp [State.deactivateSeq, hd]

/-- H6 sets the signal (R188). -/
theorem exec_eotSignal (hsound : s.Sound) (hphase : s.eotPhase = 6) :
    exec .eotSignal s = .next { s with sig := { s.sig with flag := true }, eotPhase := 7 } :=
  eotStep_of_phase hsound hphase rfl

/-- H7 where a callback was asked for and the slot is free (R189). -/
theorem exec_eotCallback_of_request (hsound : s.Sound) (hphase : s.eotPhase = 7) (hreq : s.xfer.cbReq = true)
    (hslot : s.defer = none) :
    exec .eotCallback s = .next { s with defer := s.outcome, eotPhase := 0, deferOwn := true } := by
  refine (eotStep_of_phase hsound hphase rfl).trans ?_
  rw [if_pos hreq, hslot]
  rfl

theorem exec_eotCallback_of_taken (hsound : s.Sound) (hphase : s.eotPhase = 7) (hreq : s.xfer.cbReq = true)
    (hslot : s.defer.isSome = true) : exec .eotCallback s = .next { s with fault := some .callbackOverrun } := by
  refine (eotStep_of_phase hsound hphase rfl).trans ?_
  rw [if_pos hreq, if_pos hslot, raise_of_sound hsound]

theorem exec_eotCallback_of_no_request (hsound : s.Sound) (hphase : s.eotPhase = 7) (hreq : s.xfer.cbReq = false) :
    exec .eotCallback s = .next { s with eotPhase := 0 } :=
  (eotStep_of_phase hsound hphase rfl).trans (if_neg (by simp [hreq]))

/-! The count (R186) -/

theorem eq_sentinel_iff {m : Nat} (hm : m ≤ 32) {v : Word} : v = sentinel m ↔ v.toNat = 2 ^ m - 1 := by
  rw [← toNat_sentinel hm, BitVec.toNat_inj]

theorem countOf_sentinel {m : Nat} : countOf m b (sentinel m) = b.toNat := if_pos rfl

theorem countOf_of_ne {m : Nat} {v : Word} (h : v ≠ sentinel m) : countOf m b v = (b.toNat : Int) - v.toNat := if_neg h

end Sys2Proof.Machine
end

section
namespace Sys2Proof.Proofs

open Sys2Proof.Machine

/-- Settles O35, by each step's phase and its condition on a channel (43_end_of_transfer.md R182 to R185, 60_exceptions.md R320). -/
theorem handlerStopsAndChecks : Obligations.HandlerStopsAndChecks :=
  ⟨fun _ hsound hbound hpending hphase => exec_eotEntry hsound hbound hpending hphase,
    fun _ _ hcode h => exec_eotEntry_of_not hcode h,
    fun _ hsound hphase => exec_eotStopEngines hsound hphase,
    fun _ hsound hphase hroom => exec_eotPlaceholder hsound hphase hroom,
    fun _ _ hphase hfull => eotStep_of_phase_or_guard (by simp [hphase])
      (.inr (by rw [State.chanFull_of_full (c := .rxin) hfull, Bool.not_true])),
    fun _ hsound hphase hword => exec_eotCheck_of_nil hsound hphase hword,
    fun _ hsound hphase hword => exec_eotCheck_of_word hsound hphase hword,
    fun _ _ hcode => ⟨fun h => eotStep_of_other_phase hcode h, fun h => eotStep_of_phase_or_guard hcode (.inl h),
      fun h => eotStep_of_other_phase hcode h⟩⟩

/-- Settles O36: the report is all ones or the exact remainder (43_end_of_transfer.md R186, 10_state.md R35). -/
theorem handlerAccounts : Obligations.HandlerAccounts := by
  refine ⟨fun _ _ hcode h => eotStep_of_phase_or_guard hcode (.inl h), fun s b v rest hsound hphase hword hb hw => ?_⟩
  rw [exec_eotAccount hsound hphase hword hb]
  refine ⟨fun hall => ?_, fun hother => ?_⟩
  · rw [(eq_sentinel_iff hw).mpr hall, countOf_sentinel]
  · rw [countOf_of_ne (mt (eq_sentinel_iff hw).mp hother)]

/-- Settles O37, by each step's phase; H7 by whether a callback was asked for and whether its slot is free (43_end_of_transfer.md
R187, R188, R189, 60_exceptions.md R308). -/
theorem handlerSignalsAndReturns : Obligations.HandlerSignalsAndReturns :=
  ⟨fun _ hsound hphase => exec_eotStopSeq hsound hphase,
    fun _ hsound hphase => exec_eotSignal hsound hphase,
    fun _ _ hsound hphase hreq hslot hcount => hcount ▸ exec_eotCallback_of_request hsound hphase hreq hslot,
    fun _ _ hsound hphase hreq hslot => exec_eotCallback_of_taken hsound hphase hreq (by rw [hslot]; rfl),
    fun _ hsound hphase hreq => exec_eotCallback_of_no_request hsound hphase hreq,
    fun _ _ hcode => ⟨fun h => eotStep_of_other_phase hcode h, fun h => eotStep_of_other_phase hcode h,
      fun h => eotStep_of_other_phase hcode h⟩,
    rfl⟩

end Sys2Proof.Proofs
end

section
/-! O38: runs that PRIO allows (70_reset_and_hazards.md R343). Where RX and RDE wait, the handler may step, and where the handler and
host context wait too, the master may. A `Walk` is a run of such steps, so one walk along the frame serves both halves of O38. -/

namespace Sys2Proof.Machine

/-- PRIO lets the step go first, whatever is still to come, if no command is. -/
inductive State.Turn (s : State) : Instr → Prop
  | hardware {i} : i ∈ hardwareSteps → s.Turn i
  | handler {i} : i ∈ handlerSteps → allHeld hardwareSteps s = true → s.Turn i
  | master {i} : i.agent = .master → allHeld hardwareSteps s = true → allHeld handlerSteps s = true →
      allHeld (pendingHostSteps s) s = true → s.Turn i

/-- A run from one state to another; where `calm` holds, PRIO allows each of its steps. -/
inductive Walk (calm : Prop) : List Instr → State → State → Prop
  | nil {s} : Walk calm [] s s
  | cons {i is s t u} : takeStep i s = .next t → (calm → s.Turn i) → Walk calm is t u → Walk calm (i :: is) s u

variable {s t u : State} {i : Instr} {is js script : List Instr} {calm : Prop}

/-- Without a data-out pin, with the flag 0, no callback scheduled and no task at work but a spinning READ, no step of TX, WRE or
host context is waiting. -/
def State.Calm (s : State) : Prop :=
  s.cfg.duplex = false ∧ s.sig.flag = false ∧ s.defer = none ∧
    (s.holder = none ∨ ∃ k, s.holder = some k ∧ s.task k = .spin)

/-- RX has no word to take and waits for the wire, or for the transfer to end; RDE has nothing to copy. -/
def State.Waits (s : State) : Prop :=
  s.ch.rxin = [] ∧ (s.ch.rxout = [] ∨ s.rde.active = false) ∧
    (s.rx.state = 0 ∨ (s.rx.state = 2 ∧ s.pins.cs = 1) ∨ (s.rx.state = 3 ∧ s.pins.sck = 0) ∨
      (s.rx.state = 4 ∧ s.pins.sck = 1) ∨ s.rx.state = 6)

/-! What is held -/

theorem canStep_of_held (h : takeStep i s = .next s) : canStep i s = false := by simp [canStep, h]

theorem allHeld_of_held (h : ∀ i ∈ is, takeStep i s = .next s) : allHeld is s = true :=
  List.all_eq_true.mpr fun i hi => by rw [canStep_of_held (h i hi)]; rfl

theorem exec_rx_of_waits (h : s.Waits) (hi : i.agent = .rx) : exec i s = .next s := by
  obtain ⟨hrxin, -, hstate⟩ := h
  have hempty := State.chanEmpty_rxin_of_nil hrxin
  have hcode : s.rx.state.toNat < 8 := by
    obtain h | ⟨h, -⟩ | ⟨h, -⟩ | ⟨h, -⟩ | h := hstate <;> simp [h]
  cases i with
  | rxAwaitBudget => exact rxStep_of_state_or_guard hcode (.inr hempty)
  | rxEnd => exact rxStep_of_not_enabled hcode (by rw [hempty, Bool.and_false])
  | rxOverrunWatch => exact rxStep_of_not_enabled hcode rfl
  | rxByteDone =>
    have ⟨_, _, _, hother⟩ := Proofs.rxByteDoneTestsThenDecrements
    by_cases hon : s.RxOn
    · refine hother s hon hcode ?_
      obtain h | ⟨h, -⟩ | ⟨h, -⟩ | ⟨h, -⟩ | h := hstate <;> simp [h]
    · obtain ⟨_, _, hstep⟩ := exec_eq_rxStep (i := .rxByteDone) (s := s) rfl
      rw [hstep, rxStep_of_not_on hon]
  | rxAwaitCsHigh | rxAwaitCsLow | rxWaitRise | rxWaitFall | rxReport =>
    refine rxStep_of_not_enabled hcode ?_
    obtain h | ⟨h, hpin⟩ | ⟨h, hpin⟩ | ⟨h, hpin⟩ | h := hstate <;> simp [*]
  | _ => cases hi

theorem takeStep_rx_of_waits (h : s.Waits) (hi : i.agent = .rx) : takeStep i s = .next s := by
  have hpart : i.isPart = false := by
    cases i with
    | rxAwaitBudget | rxAwaitCsHigh | rxAwaitCsLow | rxWaitRise | rxWaitFall | rxByteDone | rxOverrunWatch | rxReport
    | rxEnd => rfl
    | _ => cases hi
  rw [takeStep_of_not_part hpart, exec_rx_of_waits h hi]

theorem exec_rdeXfer_of_idle (h : s.ch.rxout = [] ∨ s.rde.active = false) : exec .rdeXfer s = .next s := by
  have ⟨_, hhold⟩ := Proofs.rdeXferCopiesOneByte
  obtain hword | hactive := h
  · exact hhold s (.inr (.inr (.inr hword)))
  · exact hhold s (.inr (.inl hactive))

theorem exec_wreXfer_of_not_duplex (h : s.cfg.duplex = false) : exec .wreXfer s = .next s :=
  have ⟨_, hhold⟩ := Proofs.wreXferFeedsOneByte
  hhold s (.inr (.inl h))

theorem exec_tx_of_not_duplex (h : s.cfg.duplex = false) (hi : i.agent = .tx) : exec i s = .next s :=
  exec_tx_of_not_on hi fun ⟨_, _, hd⟩ => by simp [h] at hd

theorem mem_hardwareSteps_cases (hi : i ∈ hardwareSteps) :
    i.isPart = false ∧ (i.agent = .rx ∨ i.agent = .tx ∨ i = .rdeXfer ∨ i = .wreXfer) := by
  revert i; decide

theorem allHeld_hardwareSteps (hduplex : s.cfg.duplex = false) (h : s.Waits) : allHeld hardwareSteps s = true := by
  refine allHeld_of_held fun i hi => ?_
  obtain ⟨hpart, hagent⟩ := mem_hardwareSteps_cases hi
  rw [takeStep_of_not_part hpart]
  obtain hrx | htx | rfl | rfl := hagent
  · exact exec_rx_of_waits h hrx
  · exact exec_tx_of_not_duplex hduplex htx
  · exact exec_rdeXfer_of_idle h.2.1
  · exact exec_wreXfer_of_not_duplex hduplex

theorem allHeld_handlerSteps (hpending : s.irq.pending = false) (hphase : s.eotPhase = 0) :
    allHeld handlerSteps s = true := by
  have hcode : s.eotPhase.toNat < 8 := by simp [hphase]
  refine allHeld_of_held fun i hi => ?_
  cases i with
  | eotEntry => exact exec_eotEntry_of_not hcode (.inr (.inl hpending))
  | eotPlaceholder | eotAccount => exact eotStep_of_phase_or_guard hcode (.inl (by simp [hphase]))
  | eotStopEngines | eotCheck | eotStopSeq | eotSignal | eotCallback =>
    exact eotStep_of_other_phase hcode (by simp [hphase])
  | _ => simp [handlerSteps] at hi

/-- A task that spins goes on by SIG.POLL alone, and that needs the flag. -/
theorem takeStep_of_spin {k : TaskId} (hholder : s.holder = some k) (hspin : s.task k = .spin) (hflag : s.sig.flag = false)
    (hi : i ∈ [Instr.arm k 0 0 .blocking, .read k, .readInto k 0 0, .asReadInto k 0 0, .iterStep k, .outcomeRead k, .sigWait k,
      .sigPoll k]) : takeStep i s = .next s := by
  have hstart : s.mayStart k = false := by simp [State.mayStart, hholder]
  simp only [List.mem_cons, List.not_mem_nil, or_false] at hi
  obtain rfl | rfl | rfl | rfl | rfl | rfl | rfl | rfl := hi <;>
    simp [takeStep, Instr.isPart, exec, execArm, execRead, execReadInto, execAsReadInto, execIterStep, execOutcomeRead,
      execSigWait, execSigPoll, startChecked, hstart, hspin, hflag, hold]

theorem allHeld_pendingHostSteps (h : s.Calm) : allHeld (pendingHostSteps s) s = true := by
  obtain ⟨-, hflag, hdefer, hholder⟩ := h
  refine allHeld_of_held fun i hi => ?_
  simp only [pendingHostSteps, List.mem_append, List.mem_singleton, List.mem_map, List.mem_flatMap, Option.mem_toList] at hi
  obtain (rfl | ⟨k, -, rfl⟩) | ⟨k, hk, hi⟩ := hi
  · simp [takeStep, Instr.isPart, exec, execDeferRun, hdefer, hold]
  · simp [takeStep, Instr.isPart, exec, execSigResume, hflag, hold]
  · obtain hnone | ⟨k', hk', hspin⟩ := hholder
    · simp [hnone] at hk
    · obtain rfl : k = k' := Option.some.inj (hk.symm.trans hk')
      exact takeStep_of_spin hk' hspin hflag hi

/-! Whose turn it is -/

theorem State.Turn.handler_of_waits (hduplex : s.cfg.duplex = false) (h : s.Waits) (hi : i ∈ handlerSteps) : s.Turn i :=
  .handler hi (allHeld_hardwareSteps hduplex h)

theorem State.Turn.master_of_calm (hs : s.Calm) (h : s.Waits) (hpending : s.irq.pending = false) (hphase : s.eotPhase = 0)
    (hi : i.agent = .master) : s.Turn i :=
  .master hi (allHeld_hardwareSteps hs.1 h) (allHeld_handlerSteps hpending hphase) (allHeld_pendingHostSteps hs)

theorem State.Turn.agent_ne_host (h : s.Turn i) : i.agent ≠ .host := by
  cases h with
  | hardware hi => revert i; decide
  | handler hi => revert i; decide
  | master hi => simp [hi]

theorem State.Turn.prio (h : s.Turn i) (hscript : commandEnabled script s = false) : prio i script s = true := by
  cases h with
  | hardware hi => exact if_pos (List.contains_iff_mem.mpr hi)
  | handler hi hheld =>
    unfold Machine.prio
    split
    · rfl
    · rw [if_pos (List.contains_iff_mem.mpr hi), hheld]
  | master hi hhardware hhandler hhost =>
    cases i with
    | wireCs | wireSck | wireMosi | wireSample =>
      simp [Machine.prio, hardwareSteps, handlerSteps, Instr.hostContext, Instr.agent, hostHeld, hscript, hhost]
      exact ⟨hhardware, hhandler⟩
    | _ => simp [Instr.agent] at hi

/-! Walks -/

theorem Walk.append (h : Walk calm is s t) (h' : Walk calm js t u) : Walk calm (is ++ js) s u := by
  induction h with
  | nil => exact h'
  | cons hstep hturn _ ih => exact .cons hstep hturn (ih h')

theorem Walk.runSteps (h : Walk calm is s t) : runSteps is s = .next t := by
  induction h with
  | nil => rfl
  | cons hstep _ _ ih => rw [runSteps_cons hstep, ih]

theorem Walk.not_commandEnabled (h : Walk calm is s t) (hcalm : calm) : commandEnabled is u = false := by
  induction h with
  | nil => rfl
  | cons _ hturn _ ih =>
    rw [commandEnabled, List.any_cons, beq_eq_false_iff_ne.mpr (hturn hcalm).agent_ne_host, Bool.false_and, Bool.false_or]
    exact ih

theorem Walk.prioRun (h : Walk calm is s t) (hcalm : calm) : prioRun is s = true := by
  induction h with
  | nil => rfl
  | cons hstep hturn hrest ih =>
    rw [Machine.prioRun, (hturn hcalm).prio (hrest.not_commandEnabled hcalm), hstep, Bool.true_and]
    exact ih

end Sys2Proof.Machine
end

section
/-! The well-formed master's frame (46_wire_master.md R264) on an armed device: a walk over its bits and its bytes, with what each
leaves. -/

namespace Sys2Proof.Machine

/-- RX is in a frame with the clock low, its channels are empty, and the handler is idle. -/
structure State.InFrame (s : State) : Prop where
  on      : s.RxOn
  sck     : s.pins.sck = 0
  rxin    : s.ch.rxin = []
  rxout   : s.ch.rxout = []
  pending : s.irq.pending = false
  phase   : s.eotPhase = 0
  room    : 1 ≤ s.params.depth

/-- RX.R after `n` complete bytes against a budget `r`: what is left, or all ones once it has wrapped (40_input_shifter.md
R106). -/
def remaining (r : Word) (n : Nat) : Word := if n ≤ r.toNat then r - BitVec.ofNat 32 n else 0xFFFFFFFF

/-- Memory with these bytes from address `a` on. -/
def Memory.store (m : Memory) (a : Addr) : List Byte → Memory
  | [] => m
  | x :: xs => Memory.store (Tab.set Memory.unlisted m a.toNat x) (a + 1) xs

/-- What the clocking of complete bytes leaves: RX at a byte boundary or parked after an overrun, the budget counted down, and as
many bytes as the budget allows copied to memory (40_input_shifter.md R106, R112, R113). -/
structure Clocked (s : State) (bytes : List Byte) (t : State) : Prop where
  frame    : t = { s with rx := t.rx, rde := { s.rde with idx := t.rde.idx }, mem := t.mem, log := t.log,
                          pins := { s.pins with mosi := t.pins.mosi } }
  active   : t.rx.active = true
  boundary : t.rx.state = 3 ∧ t.rx.bits = 8 ∨ t.rx.state = 6
  left     : t.rx.r = remaining s.rx.r bytes.length
  mem      : t.mem = s.mem.store (rdeAddr s.rde) (bytes.take s.rx.r.toNat)

/-- The state after a byte that is kept and copied to memory. -/
def State.keep (s : State) (x : Byte) : State :=
  { s.memWrite (rdeAddr s.rde) x with
    rx := { s.rx with r := s.rx.r - 1, shift := 0, bits := 8, state := 3 }
    rde := { s.rde with idx := s.rde.idx + 1 }
    log := s.log ++ [.memw (rdeAddr s.rde) x]
    pins := { s.pins with mosi := x.extractLsb' 0 1 } }

variable {s t : State} {calm : Prop} {c : Level} {cs tail : List Level} {x : Byte} {bytes : List Byte} {b : Word}

/-! Where hardware waits -/

theorem State.Waits.of_low (hrxin : s.ch.rxin = []) (hrxout : s.ch.rxout = []) (hstate : s.rx.state = 3 ∨ s.rx.state = 6)
    (hsck : s.pins.sck = 0) : s.Waits :=
  ⟨hrxin, .inl hrxout, .inr (.inr (hstate.imp (⟨·, hsck⟩) .inr))⟩

theorem State.Waits.of_high (hrxin : s.ch.rxin = []) (hrxout : s.ch.rxout = []) (hstate : s.rx.state = 4 ∨ s.rx.state = 6)
    (hsck : s.pins.sck = 1) : s.Waits :=
  ⟨hrxin, .inl hrxout, .inr (.inr (.inr (hstate.imp (⟨·, hsck⟩) id)))⟩

theorem State.Waits.of_overrun (hrxin : s.ch.rxin = []) (hrxout : s.ch.rxout = []) (hstate : s.rx.state = 6) : s.Waits :=
  ⟨hrxin, .inl hrxout, .inr (.inr (.inr (.inr hstate)))⟩

theorem State.Waits.of_ended (hrxin : s.ch.rxin = []) (hrde : s.rde.active = false) (hstate : s.rx.state = 0) : s.Waits :=
  ⟨hrxin, .inr hrde, .inl hstate⟩

/-! One bit -/

/-- Bits and bytes change RX's registers, RDE's, memory, LOG and PIN.mosi, and none of these ends the frame. -/
theorem State.InFrame.congr (h : s.InFrame) (hactive : t.rx.active = true)
    (ht : t = { s with rx := t.rx, rde := t.rde, mem := t.mem, log := t.log,
                       pins := { s.pins with mosi := t.pins.mosi } }) : t.InFrame := by
  obtain ⟨⟨hsound, -⟩, hsck, hrxin, hrxout, hpending, hphase, hroom⟩ := h
  rw [ht]
  exact ⟨⟨hsound, hactive⟩, hsck, hrxin, hrxout, hpending, hphase, hroom⟩

theorem State.InFrame.rxout_room (h : s.InFrame) : s.ch.rxout.length < s.params.depth := by rw [h.rxout]; exact h.room

theorem Pins.set_sck_of_low {p : Pins} (h : p.sck = 0) : { p with mosi := c, sck := 0 } = { p with mosi := c } := by
  rw [h]

/-- The five steps of a bit, given RX's answers to the two edges of the clock. -/
theorem walk_bitSteps {r r' : RxRegs} (hcalm : calm → s.Calm) (h : s.InFrame) (hstate : s.rx.state = 3 ∨ s.rx.state = 6)
    (hrise : takeStep .rxWaitRise { s with pins := { s.pins with mosi := c, sck := 1 } } =
      .next { s with rx := r, pins := { s.pins with mosi := c, sck := 1 } })
    (hr : r.state = 4 ∨ r.state = 6)
    (hfall : takeStep .rxWaitFall { s with rx := r, pins := { s.pins with mosi := c, sck := 0 } } =
      .next { s with rx := r', pins := { s.pins with mosi := c, sck := 0 } }) :
    Walk calm (bitSteps c) s { s with rx := r', pins := { s.pins with mosi := c } } := by
  obtain ⟨⟨⟨-, hfault⟩, -⟩, hsck, hrxin, hrxout, hpending, hphase, -⟩ := h
  rw [← Pins.set_sck_of_low hsck]
  refine .cons (takeStep_wireMosi hfault)
    (fun hc => .master_of_calm (hcalm hc) (.of_low hrxin hrxout hstate hsck) hpending hphase rfl) ?_
  refine .cons (takeStep_wireSck hfault)
    (fun hc => .master_of_calm (hcalm hc) (.of_low hrxin hrxout hstate hsck) hpending hphase rfl) ?_
  refine .cons hrise (fun _ => .hardware (by decide)) ?_
  refine .cons (takeStep_wireSck hfault)
    (fun hc => .master_of_calm (hcalm hc) (.of_high hrxin hrxout hr rfl) hpending hphase rfl) ?_
  exact .cons hfall (fun _ => .hardware (by decide)) .nil

/-- A bit that RX samples. -/
theorem walk_bit (hcalm : calm → s.Calm) (h : s.InFrame) (hstate : s.rx.state = 3) :
    Walk calm (bitSteps c) s
      { s with
        rx := { s.rx with
          shift := shiftIn s.rx.shift c, bits := s.rx.bits - 1, state := if s.rx.bits - 1 = 0 then 5 else 3 }
        pins := { s.pins with mosi := c } } :=
  walk_bitSteps hcalm h (.inl hstate) (takeStep_rxWaitRise h.on hstate rfl) (.inl rfl) (takeStep_rxWaitFall h.on rfl rfl)

/-- A bit that finds RX parked. -/
theorem walk_bit_of_overrun (hcalm : calm → s.Calm) (h : s.InFrame) (hstate : s.rx.state = 6) :
    Walk calm (bitSteps c) s { s with pins := { s.pins with mosi := c } } :=
  walk_bitSteps hcalm h (.inr hstate) (takeStep_rx_of_waits (.of_overrun h.rxin h.rxout hstate) rfl) (.inr hstate)
    (takeStep_rx_of_waits (.of_overrun h.rxin h.rxout hstate) rfl)

/-! Some bits -/

/-- Fewer bits than RX awaits leave it in WAIT_RISE. -/
theorem exists_walk_bits (hcalm : calm → s.Calm) (h : s.InFrame) (hstate : s.rx.state = 3)
    (hbits : cs.length < s.rx.bits.toNat) :
    ∃ t, Walk calm (cs.flatMap bitSteps) s t ∧ t.rx.bits.toNat + cs.length = s.rx.bits.toNat ∧
      t = { s with rx := { s.rx with shift := t.rx.shift, bits := t.rx.bits },
                   pins := { s.pins with mosi := t.pins.mosi } } := by
  induction cs generalizing s with
  | nil => exact ⟨s, .nil, rfl, rfl⟩
  | cons c cs ih =>
    have hlen : cs.length + 1 < s.rx.bits.toNat := hbits
    have hmore : (s.rx.bits - 1).toNat = s.rx.bits.toNat - 1 := by bv_omega
    have hne : s.rx.bits - 1 ≠ 0 := fun h0 => by rw [h0] at hmore; simp at hmore; omega
    have hbit := walk_bit (c := c) hcalm h hstate
    rw [if_neg hne] at hbit
    obtain ⟨t, hwalk, hleft, ht⟩ := ih (s := { s with
        rx := { s.rx with shift := shiftIn s.rx.shift c, bits := s.rx.bits - 1, state := 3 }
        pins := { s.pins with mosi := c } }) hcalm (h.congr h.on.2 rfl) rfl (by rw [hmore]; omega)
    refine ⟨t, hbit.append hwalk, ?_, ?_⟩
    · rw [List.length_cons]
      change _ = (s.rx.bits - 1).toNat at hleft
      omega
    · rw [← hstate] at ht; exact ht

/-- Bits after an overrun change nothing but PIN.mosi. -/
theorem exists_walk_bits_of_overrun (hcalm : calm → s.Calm) (h : s.InFrame) (hstate : s.rx.state = 6) :
    ∃ t, Walk calm (cs.flatMap bitSteps) s t ∧ t = { s with pins := { s.pins with mosi := t.pins.mosi } } := by
  induction cs generalizing s with
  | nil => exact ⟨s, .nil, rfl⟩
  | cons c cs ih =>
    obtain ⟨t, hwalk, ht⟩ := ih (s := { s with pins := { s.pins with mosi := c } }) hcalm (h.congr h.on.2 rfl) hstate
    exact ⟨t, (walk_bit_of_overrun hcalm h hstate).append hwalk, ht⟩

/-- The bits after the last complete byte, fewer than eight, leave RX where RX.END takes it. -/
theorem exists_walk_tail (hcalm : calm → s.Calm) (h : s.InFrame)
    (hstate : s.rx.state = 3 ∧ s.rx.bits = 8 ∨ s.rx.state = 6) (htail : tail.length < 8) :
    ∃ t, Walk calm (tail.flatMap bitSteps) s t ∧
      t = { s with rx := { s.rx with shift := t.rx.shift, bits := t.rx.bits },
                   pins := { s.pins with mosi := t.pins.mosi } } := by
  obtain ⟨hstate, hbits⟩ | hstate := hstate
  · obtain ⟨t, hwalk, -, ht⟩ := exists_walk_bits (cs := tail) hcalm h hstate (by simpa [hbits] using htail)
    exact ⟨t, hwalk, ht⟩
  · obtain ⟨t, hwalk, ht⟩ := exists_walk_bits_of_overrun (cs := tail) hcalm h hstate
    refine ⟨t, hwalk, ?_⟩
    rw [ht]

/-! One byte -/

/-- A byte's eight bits leave it in RX's shift register (O18). -/
theorem walk_wireBits (hcalm : calm → s.Calm) (h : s.InFrame) (hstate : s.rx.state = 3) (hbits : s.rx.bits = 8) :
    Walk calm ((wireBits x).flatMap bitSteps) s
      { s with
        rx := { s.rx with shift := x, bits := 0, state := 5 }
        pins := { s.pins with mosi := x.extractLsb' 0 1 } } := by
  obtain ⟨t, hseven, -, ht⟩ := exists_walk_bits (cs := (wireBits x).dropLast) hcalm h hstate (by simp [hbits, wireBits])
  have ht' : t.InFrame := h.congr (by rw [ht]; exact h.on.2) (by rw [ht])
  have hlast := walk_bit (c := x.extractLsb' 0 1) (fun hc => by rw [ht]; exact hcalm hc) ht' (by rw [ht]; exact hstate)
  have hbyte := hseven.append hlast
  have ⟨hrun, _⟩ := Proofs.byteCrossesTheWire
  have hend := hbyte.runSteps.symm.trans (hrun s x h.on hstate hbits)
  injection hend with hend
  rw [Pins.set_sck_of_low h.sck] at hend
  exact hend ▸ hbyte

theorem extractLsb'_setWidth (x : Byte) : (x.setWidth 32 : Word).extractLsb' 0 8 = x := by
  rw [← wordByte_eq, wordByte, BitVec.setWidth_setWidth_of_le x (by decide), BitVec.setWidth_eq]

/-- A byte within the budget is copied to memory (40_input_shifter.md R106, 42_copy_engines.md R151). -/
theorem walk_byte (hcalm : calm → s.Calm) (h : s.InFrame) (hstate : s.rx.state = 3) (hbits : s.rx.bits = 8)
    (hr : s.rx.r ≠ 0) (hactive : s.rde.active = true) (hleft : s.rde.idx.toNat < s.rde.count.toNat) :
    Walk calm (byteSteps x) s (s.keep x) := by
  have ⟨hdone, _⟩ := Proofs.rxByteDoneTestsThenDecrements
  refine (walk_wireBits hcalm h hstate hbits).append ?_
  refine .cons (hdone _ h.on rfl hr h.rxout_room) (fun _ => .hardware (by decide)) ?_
  refine .cons (exec_rdeXfer_of_cons (State.rdeMayCopy_iff.mpr ⟨h.on.1, hactive, hleft, by simp⟩)
    (congrArg (· ++ [x.setWidth 32]) h.rxout)) (fun _ => .hardware (by decide)) ?_
  rw [extractLsb'_setWidth, ← sub_one_eq_ofNat hr, ← h.rxout]
  exact .nil

/-- The byte that finds the budget 0 is dropped, and RX parks (40_input_shifter.md R106). -/
theorem walk_byte_of_spent (hcalm : calm → s.Calm) (h : s.InFrame) (hstate : s.rx.state = 3) (hbits : s.rx.bits = 8)
    (hr : s.rx.r = 0) :
    Walk calm (byteSteps x) s
      { s with
        rx := { s.rx with r := 0xFFFFFFFF, shift := 0, bits := 0, state := 6 }
        pins := { s.pins with mosi := x.extractLsb' 0 1 } } := by
  have ⟨_, hdone, _⟩ := Proofs.rxByteDoneTestsThenDecrements
  refine (walk_wireBits hcalm h hstate hbits).append ?_
  refine .cons (hdone _ h.on rfl hr) (fun _ => .hardware (by decide)) ?_
  exact .cons (exec_rdeXfer_of_idle (.inl h.rxout)) (fun _ => .hardware (by decide)) .nil

/-! Some bytes -/

/-- Bytes after an overrun change nothing but PIN.mosi. -/
theorem exists_walk_bytes_of_overrun (hcalm : calm → s.Calm) (h : s.InFrame) (hstate : s.rx.state = 6) :
    ∃ t, Walk calm (bytes.flatMap byteSteps) s t ∧ t = { s with pins := { s.pins with mosi := t.pins.mosi } } := by
  induction bytes generalizing s with
  | nil => exact ⟨s, .nil, rfl⟩
  | cons x xs ih =>
    obtain ⟨u, hbits, hu⟩ := exists_walk_bits_of_overrun (cs := wireBits x) hcalm h hstate
    have hframe : u.InFrame := h.congr (by rw [hu]; exact h.on.2) (by rw [hu])
    have hparked : u.rx.state = 6 := by rw [hu]; exact hstate
    have hwaits : u.Waits := .of_overrun hframe.rxin hframe.rxout hparked
    have hbyte : Walk calm (byteSteps x) s u := hbits.append
      (.cons (takeStep_rx_of_waits hwaits rfl) (fun _ => .hardware (by decide))
        (.cons (exec_rdeXfer_of_idle (.inl hframe.rxout)) (fun _ => .hardware (by decide)) .nil))
    obtain ⟨t, hrest, ht⟩ := ih (s := u) (fun hc => by rw [hu]; exact hcalm hc) hframe hparked
    refine ⟨t, hbyte.append hrest, ?_⟩
    rw [hu] at ht
    exact ht

theorem remaining_zero (r : Word) : remaining r 0 = r := by simp [remaining]

theorem remaining_zero_succ (n : Nat) : remaining 0 (n + 1) = 0xFFFFFFFF := by simp [remaining]

theorem remaining_succ {r : Word} (hr : r ≠ 0) (n : Nat) : remaining r (n + 1) = remaining (r - 1) n := by
  have hpred : (r - 1).toNat + 1 = r.toNat := by bv_omega
  unfold remaining
  by_cases hn : n + 1 ≤ r.toNat
  · rw [if_pos hn, if_pos (by omega)]
    bv_omega
  · rw [if_neg hn, if_neg (by omega)]

/-- RX takes any bytes, as many as the budget allows go to memory, and one more parks it. -/
theorem exists_walk_bytes (hcalm : calm → s.Calm) (h : s.InFrame) (hstate : s.rx.state = 3) (hbits : s.rx.bits = 8)
    (hactive : s.rde.active = true) (hleft : s.rde.idx.toNat + s.rx.r.toNat = s.rde.count.toNat) :
    ∃ t, Walk calm (bytes.flatMap byteSteps) s t ∧ Clocked s bytes t := by
  induction bytes generalizing s with
  | nil => exact ⟨s, .nil, rfl, h.on.2, .inl ⟨hstate, hbits⟩, (remaining_zero _).symm, by rw [List.take_nil]; rfl⟩
  | cons x xs ih =>
    by_cases hr : s.rx.r = 0
    · have hbyte := walk_byte_of_spent (x := x) hcalm h hstate hbits hr
      obtain ⟨t, hrest, ht⟩ := exists_walk_bytes_of_overrun (bytes := xs) (s := { s with
        rx := { s.rx with r := 0xFFFFFFFF, shift := 0, bits := 0, state := 6 }
        pins := { s.pins with mosi := x.extractLsb' 0 1 } }) hcalm (h.congr h.on.2 rfl) rfl
      refine ⟨t, hbyte.append hrest, by rw [ht], by rw [ht]; exact h.on.2, .inr (by rw [ht]), ?_, ?_⟩
      · rw [ht, hr, List.length_cons, remaining_zero_succ]
      · rw [ht, hr]; rfl
    · have hpred : s.rx.r.toNat = (s.rx.r - 1).toNat + 1 := by bv_omega
      have hroom : s.rde.idx.toNat < s.rde.count.toNat := by omega
      have hnext : (s.rde.idx + 1).toNat = s.rde.idx.toNat + 1 := by bv_omega
      have haddr : rdeAddr (s.keep x).rde = rdeAddr s.rde + 1 := (add_assoc _ _ _).symm
      obtain ⟨t, hrest, hframe, hon, hboundary, hcount, hmem⟩ := ih (s := s.keep x) hcalm (h.congr h.on.2 rfl) rfl rfl hactive
        (by change (s.rde.idx + 1).toNat + (s.rx.r - 1).toNat = s.rde.count.toNat; omega)
      refine ⟨t, (walk_byte hcalm h hstate hbits hr hactive hroom).append hrest, hframe, hon, hboundary, ?_, ?_⟩
      · rw [hcount, List.length_cons, remaining_succ hr]; rfl
      · rw [hmem, hpred, List.take_succ_cons, haddr]; rfl

end Sys2Proof.Machine
end

section
/-! The ends of the frame: chip-select asserted, and the handler's run after it is deasserted; then the whole frame. -/

namespace Sys2Proof.Machine

variable {s t : State} {calm : Prop} {tail : List Level} {bytes : List Byte} {b : Word}

/-! Memory after a copy of many bytes -/

/-- Reading after a store: inside the region the byte stored there, outside it what was there before. -/
theorem Memory.get_store {m : Memory} {a a' : Addr} {xs : List Byte} (hwf : Tab.wf Memory.unlisted m = true)
    (hlen : xs.length ≤ 2 ^ 32) :
    Tab.get Memory.unlisted (m.store a xs) a'.toNat =
      (xs[(a' - a).toNat]?).getD (Tab.get Memory.unlisted m a'.toNat) := by
  induction xs generalizing m a with
  | nil => rfl
  | cons x xs ih =>
    have hlen : xs.length + 1 ≤ 2 ^ 32 := hlen
    rw [Memory.store, ih (Tab.wf_set hwf) (by omega), Tab.get_set hwf]
    by_cases ha : a' = a
    · have hlast : (a' - (a + 1)).toNat = 2 ^ 32 - 1 := by rw [ha]; bv_omega
      rw [hlast, List.getElem?_eq_none (by omega), ha, sub_self]
      simp
    · have hnext : (a' - a).toNat = (a' - (a + 1)).toNat + 1 := by bv_omega
      rw [if_neg (mt BitVec.toNat_inj.mp ha), hnext, List.getElem?_cons_succ]

theorem State.memRead_of_store {m : Nat} {dst a : Addr} (hwf : s.mem.wf = true) (hm : m ≤ 2 ^ 32)
    (hmem : t.mem = s.mem.store dst (bytes.take m)) :
    t.memRead a = ((bytes.take m)[(a - dst).toNat]?).getD (s.memRead a) := by
  have hwf : Tab.wf Memory.unlisted s.mem = true := (Bool.and_eq_true_iff.mp hwf).1
  rw [State.memRead, hmem, Memory.get_store hwf (by rw [List.length_take]; omega)]
  rfl

theorem State.memRead_of_store_inside {dst : Addr} {k : Nat} {x : Byte} (hwf : s.mem.wf = true)
    (hmem : t.mem = s.mem.store dst (bytes.take b.toNat)) (hk : k < b.toNat) (hx : bytes[k]? = some x) :
    t.memRead (dst + BitVec.ofNat 32 k) = x := by
  have hoffset : (dst + BitVec.ofNat 32 k - dst).toNat = k := by bv_omega
  rw [State.memRead_of_store hwf b.isLt.le hmem, hoffset, List.getElem?_take_of_lt hk, hx, Option.getD_some]

theorem State.memRead_of_store_outside {dst a : Addr} (hwf : s.mem.wf = true)
    (hmem : t.mem = s.mem.store dst (bytes.take b.toNat)) (ha : min bytes.length b.toNat ≤ (a - dst).toNat) :
    t.memRead a = s.memRead a := by
  rw [State.memRead_of_store hwf b.isLt.le hmem, List.getElem?_eq_none (by rw [List.length_take]; omega), Option.getD_none]

/-! Chip-select -/

theorem takeStep_wireCs_low (h : s.fault = none) :
    takeStep (.wireCs 0) s = .next { s with pins := { s.pins with cs := 0 } } := by
  simp [takeStep, Instr.isPart, exec, execWireCs, wireStep, State.csEdge, h]

/-- Deassertion latches the edge (43_end_of_transfer.md R180). -/
theorem takeStep_wireCs_high (h : s.Sound) (hcs : s.pins.cs = 0) (hbound : s.irq.bound = true) :
    takeStep (.wireCs 1) s =
      .next { s with pins := { s.pins with cs := 1 }, irq := { s.irq with pending := true } } := by
  obtain ⟨hlive, hfault⟩ := h
  simp [takeStep, Instr.isPart, exec, execWireCs, wireStep, State.csEdge, hlive, hfault, hcs, hbound]

/-- The master asserts chip-select, and RX sees it. -/
theorem walk_start (hcalm : calm → s.Calm) (h : ReadyForFrame s b) :
    Walk calm [.wireCs 0, .rxAwaitCsLow] s
      { s with
        pins := { s.pins with cs := 0 }
        rx := { s.rx with bits := 8, shift := 0, state := 3 } } := by
  have ⟨hsound, _, _, ⟨hactive, hstate, _⟩, _, _, ⟨hrxin, hrxout⟩, ⟨hcs, _⟩, ⟨_, hpending, hphase⟩, _⟩ := h
  have ⟨_, _, hlow, _⟩ := Proofs.rxChipSelectWaits
  refine .cons (takeStep_wireCs_low hsound.2) (fun hc => .master_of_calm (hcalm hc)
    ⟨hrxin, .inl hrxout, .inr (.inl ⟨hstate, hcs⟩)⟩ hpending hphase rfl) ?_
  exact .cons (hlow _ ⟨hsound, hactive⟩ hstate rfl) (fun _ => .hardware (by decide)) .nil

/-! The handler's run -/

/-- The handler has run: it counted `n` bytes and left memory as `m`. -/
structure Accounted (n : Int) (m : Memory) (t : State) : Prop where
  outcome : t.outcome = some n
  mem     : t.mem = m
  flag    : t.sig.flag = true
  phase   : t.eotPhase = 0
  fault   : t.fault = none
  rx      : t.rx.active = false
  rde     : t.rde.active = false

/-- H7 on a free slot returns, whether or not a callback was asked for. -/
theorem takeStep_eotCallback_of_free (hsound : s.Sound) (hphase : s.eotPhase = 7) (hslot : s.defer = none) :
    takeStep .eotCallback s =
      .next { s with
        defer := if s.xfer.cbReq then s.outcome else s.defer
        eotPhase := 0
        deferOwn := if s.xfer.cbReq then true else s.deferOwn } := by
  rcases hreq : s.xfer.cbReq
  · exact exec_eotCallback_of_no_request hsound hphase hreq
  · exact exec_eotCallback_of_request hsound hphase hreq hslot

/-- Chip-select is deasserted, and the handler stops the engines and puts the placeholder. -/
theorem walk_stopping (hcalm : calm → s.Calm) (h : s.InFrame) (hcs : s.pins.cs = 0)
    (hstate : s.rx.state = 3 ∨ s.rx.state = 6) (hbound : s.irq.bound = true) :
    Walk calm [.wireCs 1, .eotEntry, .eotStopEngines, .eotPlaceholder] s
      { s with
        pins := { s.pins with cs := 1 }
        irq := { s.irq with pending := false }
        rde := { s.rde with active := false }
        wre := if s.cfg.duplex then { s.wre with active := false } else s.wre
        ch := { s.ch with rxin := s.ch.rxin ++ [0] }
        eotPhase := 3 } := by
  obtain ⟨⟨hsound, -⟩, hsck, hrxin, hrxout, hpending, hphase, hdepth⟩ := h
  have hroom : s.ch.rxin.length < s.params.depth := by rw [hrxin]; exact hdepth
  have hduplex (hc : calm) : s.cfg.duplex = false := (hcalm hc).1
  refine .cons (takeStep_wireCs_high hsound hcs hbound)
    (fun hc => .master_of_calm (hcalm hc) (.of_low hrxin hrxout hstate hsck) hpending hphase rfl) ?_
  refine .cons (exec_eotEntry hsound hbound rfl hphase)
    (fun hc => .handler_of_waits (hduplex hc) (.of_low hrxin hrxout hstate hsck) (by decide)) ?_
  refine .cons (exec_eotStopEngines hsound rfl)
    (fun hc => .handler_of_waits (hduplex hc) (.of_low hrxin hrxout hstate hsck) (by decide)) ?_
  exact .cons (exec_eotPlaceholder hsound rfl hroom)
    (fun hc => .handler_of_waits (hduplex hc) (.of_low hrxin hrxout hstate hsck) (by decide)) .nil

/-- RX takes the placeholder and reports what is left of the budget. -/
theorem walk_reporting (hon : s.RxOn) (hstate : s.rx.state = 3 ∨ s.rx.state = 6) (hrxin : s.ch.rxin = [0])
    (hroom : s.ch.rxout.length < s.params.depth) (hw : 2 ≤ s.params.w ∧ s.params.w ≤ 32) :
    Walk calm [.rxEnd, .rxReport] s
      { s with
        rx := { s.rx with shift := 0, bits := 0, state := 0 }
        ch := { s.ch with rxin := [], rxout := s.ch.rxout ++ [reportWord s.params.w s.rx.r] } } := by
  have ⟨_, _, hend, _⟩ := Proofs.rxEndsAtTransferEnded
  have ⟨hreport, _⟩ := Proofs.rxReportsRemainingBudget
  rw [reportWord_eq]
  refine .cons (hend s 0 [] hon (hstate.imp_right .inr) hrxin) (fun _ => .hardware (by decide)) ?_
  exact .cons (hreport _ hon rfl hroom hw.1 hw.2) (fun _ => .hardware (by decide)) .nil

/-- The handler takes the report, counts, signals and returns. -/
theorem walk_counting {v : Word} (hduplex : calm → s.cfg.duplex = false) (hsound : s.Sound) (hwaits : s.Waits)
    (hphase : s.eotPhase = 3) (hrde : s.rde.active = false) (hword : s.ch.rxout = [v]) (hb : s.xfer.b = some b)
    (hslot : s.defer = none) :
    Walk calm [.eotCheck, .eotAccount, .eotStopSeq, .eotSignal, .eotCallback] s
      { s with
        ch := { s.ch with rxout := [] }
        outcome := some (countOf s.params.w b v)
        rx := { s.rx with active := false }
        tx := if s.cfg.duplex then { s.tx with active := false } else s.tx
        sig := { s.sig with flag := true }
        defer := if s.xfer.cbReq then some (countOf s.params.w b v) else s.defer
        deferOwn := if s.xfer.cbReq then true else s.deferOwn
        eotPhase := 0 } := by
  refine .cons (exec_eotCheck_of_word hsound hphase (by simp [hword]))
    (fun hc => .handler_of_waits (hduplex hc) hwaits (by decide)) ?_
  refine .cons (exec_eotAccount hsound rfl hword hb)
    (fun hc => .handler_of_waits (hduplex hc) hwaits (by decide)) ?_
  refine .cons (exec_eotStopSeq hsound rfl)
    (fun hc => .handler_of_waits (hduplex hc) ⟨hwaits.1, .inr hrde, hwaits.2.2⟩ (by decide)) ?_
  refine .cons (exec_eotSignal hsound rfl)
    (fun hc => .handler_of_waits (hduplex hc) ⟨hwaits.1, .inr hrde, hwaits.2.2⟩ (by decide)) ?_
  exact .cons (takeStep_eotCallback_of_free hsound rfl hslot)
    (fun hc => .handler_of_waits (hduplex hc) ⟨hwaits.1, .inr hrde, hwaits.2.2⟩ (by decide)) .nil

/-- The end of a frame: the handler stops RDE, RX reports what is left, and the handler counts. -/
theorem exists_walk_closing (hcalm : calm → s.Calm) (h : s.InFrame) (hcs : s.pins.cs = 0)
    (hstate : s.rx.state = 3 ∨ s.rx.state = 6) (hbound : s.irq.bound = true) (hw : 2 ≤ s.params.w ∧ s.params.w ≤ 32)
    (hb : s.xfer.b = some b) (hslot : s.defer = none) :
    ∃ t, Walk calm [.wireCs 1, .eotEntry, .eotStopEngines, .eotPlaceholder, .rxEnd, .rxReport, .eotCheck, .eotAccount,
        .eotStopSeq, .eotSignal, .eotCallback] s t ∧
      Accounted (countOf s.params.w b (reportWord s.params.w s.rx.r)) s.mem t := by
  have hduplex (hc : calm) : s.cfg.duplex = false := (hcalm hc).1
  have hplaceholder : s.ch.rxin ++ [0] = [0] := by rw [h.rxin]; rfl
  have hreport (v : Word) : s.ch.rxout ++ [v] = [v] := by rw [h.rxout]; rfl
  have hstopped := walk_stopping hcalm h hcs hstate hbound
  have hreported := hstopped.append (walk_reporting h.on hstate hplaceholder h.rxout_room hw)
  have hcounted := hreported.append
    (walk_counting hduplex h.on.1 (.of_ended rfl rfl rfl) rfl rfl (hreport _) hb hslot)
  refine ⟨_, hcounted, ?_⟩
  exact ⟨rfl, rfl, rfl, rfl, h.on.1.2, rfl, rfl⟩

/-! The whole frame -/

/-- The count that the handler makes of what is left after `n` bytes is `n`, or the budget if it was exceeded
(43_end_of_transfer.md R190). -/
theorem countOf_remaining {w n : Nat} (hw : 2 ≤ w ∧ w ≤ 32) (hb : b.toNat ≤ 2 ^ w - 2) :
    countOf w b (reportWord w (remaining b n)) = ((min n b.toNat : Nat) : Int) := by
  unfold remaining
  by_cases hn : n ≤ b.toNat
  · have ⟨_, _, _, hexact⟩ := Proofs.rxReportsRemainingBudget
    have hleft : (b - BitVec.ofNat 32 n).toNat = b.toNat - n := by bv_omega
    obtain ⟨hreport, hne⟩ := hexact w (b - BitVec.ofNat 32 n) hw.1 hw.2 (by rw [hleft]; omega)
    rw [if_pos hn, countOf_of_ne hne, hreport, hleft, min_eq_left hn]
    omega
  · rw [if_neg hn, reportWord_allOnes hw.2, countOf_sentinel, min_eq_right (by omega)]

/-- The device before chip-select is deasserted at the end of a frame of these bytes (40_input_shifter.md R112, R113). -/
structure FrameClocked (s : State) (b : Word) (bytes : List Byte) (t : State) : Prop where
  rest     : t = { s with rx := t.rx, rde := t.rde, mem := t.mem, log := t.log,
                          pins := { s.pins with cs := 0, mosi := t.pins.mosi } }
  active   : t.rx.active = true
  boundary : t.rx.state = 3 ∨ t.rx.state = 6
  left     : t.rx.r = remaining b bytes.length
  mem      : t.mem = s.mem.store s.xfer.dst (bytes.take b.toNat)

/-- The frame up to its last bit on a device that is ready for it. -/
theorem exists_walk_clocking (hcalm : calm → s.Calm) (h : ReadyForFrame s b) (htail : tail.length < 8) :
    ∃ t, Walk calm ([.wireCs 0, .rxAwaitCsLow] ++ bytes.flatMap byteSteps ++ tail.flatMap bitSteps) s t ∧
      FrameClocked s b bytes t := by
  have hstart := walk_start hcalm h
  obtain ⟨hsound, ⟨-, -, hdepth⟩, -, ⟨hactive, -, hr⟩, ⟨hrde, hcount, hidx⟩, ⟨-, hdst⟩, ⟨hrxin, hrxout⟩, ⟨-, hsck⟩,
    ⟨-, hpending, hphase⟩, -⟩ := h
  have hroom := Nat.le_of_succ_le hdepth
  have haddr : rdeAddr s.rde = s.xfer.dst := by rw [rdeAddr, hidx, hdst, add_zero]
  obtain ⟨u, hbytes, hu, hon, hboundary, hleft, hmem⟩ := exists_walk_bytes (bytes := bytes) (s := { s with
      pins := { s.pins with cs := 0 }
      rx := { s.rx with bits := 8, shift := 0, state := 3 } }) hcalm
    ⟨⟨hsound, hactive⟩, hsck, hrxin, hrxout, hpending, hphase, hroom⟩ rfl rfl hrde (by simp [hidx, hcount, hr])
  have hframe : u.InFrame := by rw [hu]; exact ⟨⟨hsound, hon⟩, hsck, hrxin, hrxout, hpending, hphase, hroom⟩
  obtain ⟨t, hbits, ht⟩ := exists_walk_tail (fun hc => by rw [hu]; exact hcalm hc) hframe hboundary htail
  rw [haddr, hr] at hmem
  rw [hr] at hleft
  refine ⟨t, (hstart.append hbytes).append hbits, ?_⟩
  rw [ht]
  exact ⟨by rw [hu], hon, hboundary.imp_left And.left, hleft, hmem⟩

/-- The whole frame on a device that is ready for it. -/
theorem exists_walk_frame (hcalm : calm → s.Calm) (h : ReadyForFrame s b) (htail : tail.length < 8) :
    ∃ t, Walk calm (frameSteps bytes tail) s t ∧
      Accounted ((min bytes.length b.toNat : Nat) : Int) (s.mem.store s.xfer.dst (bytes.take b.toNat)) t := by
  obtain ⟨u, hclocking, hu, hon, hboundary, hleft, hmem⟩ := exists_walk_clocking (bytes := bytes) hcalm h htail
  obtain ⟨hsound, ⟨hw2, hw, hdepth⟩, ⟨-, hbudget⟩, -, -, ⟨hb, -⟩, ⟨hrxin, hrxout⟩, ⟨-, hsck⟩, ⟨hbound, hpending, hphase⟩,
    hslot⟩ := h
  have hframe : u.InFrame := by
    rw [hu]; exact ⟨⟨hsound, hon⟩, hsck, hrxin, hrxout, hpending, hphase, Nat.le_of_succ_le hdepth⟩
  have hparams : u.params = s.params := by rw [hu]
  obtain ⟨t, hclosing, ht⟩ := exists_walk_closing (b := b) (fun hc => by rw [hu]; exact hcalm hc) hframe (by rw [hu])
    hboundary (by rw [hu]; exact hbound) (hparams ▸ ⟨hw2, hw⟩) (by rw [hu]; exact hb) (by rw [hu]; exact hslot)
  rw [hleft, hparams, countOf_remaining ⟨hw2, hw⟩ hbudget, hmem] at ht
  exact ⟨t, hclocking.append hclosing, ht⟩

end Sys2Proof.Machine
end

section
/-! Steps of TX and WRE anywhere in a frame: they write what the frame's own steps do not read (41_output_shifter.md R130,
42_copy_engines.md R155), so the run with them ends as the run without them, but for what TX and WRE write. -/

namespace Sys2Proof.Machine

/-- `s`, but for what TX and WRE write and LOG, which are as in `o`. -/
def State.withSend (s o : State) : State :=
  { s with
    tx := o.tx
    wre := o.wre
    ch := { s.ch with txin := o.ch.txin }
    pins := { s.pins with miso := o.pins.miso }
    log := o.log
    draws := o.draws }

/-- `u` is `s` but for what TX and WRE write and LOG, and TX's state is no reserved code. -/
structure SendsApart (s u : State) : Prop where
  rest : u = s.withSend u
  code : u.tx.state.toNat < 5

/-- Where the first answer is a next state, so is the second, and it differs only in what TX and WRE write and LOG, with TX's
state as in `o`. -/
def Follows (o : State) (out out' : Out) : Prop :=
  ∀ t, out = .next t → ∃ u, out' = .next u ∧ u = t.withSend u ∧ u.tx.state = o.tx.state

/-- The steps of a frame's agents: RX, RDE, the handler, and the master but for its sample. -/
def FrameStep (i : Instr) : Prop :=
  i.agent = .rx ∨ i = .rdeXfer ∨ i ∈ handlerSteps ∨ ∃ v, i = .wireCs v ∨ i = .wireSck v ∨ i = .wireMosi v

/-- A step of TX or WRE. -/
def SendStep (i : Instr) : Prop := i.agent = .tx ∨ i.agent = .wre

variable {s t u o : State} {i : Instr} {is : List Instr} {a a' b b' : Out} {f : FaultCode} {c : Prop}

/-! A step of TX or WRE -/

theorem SendsApart.refl (h : s.tx.state.toNat < 5) : SendsApart s s := ⟨rfl, h⟩

theorem SendsApart.trans (h : SendsApart s t) (h' : SendsApart t u) : SendsApart s u :=
  ⟨h'.rest.trans (by rw [h.rest]; rfl), h'.code⟩

theorem sendsApart_of_txStep {enabled : Bool} (hcode : s.tx.state.toNat < 5) (hafter : SendsApart s u)
    (h : txStep s enabled u = .next t) : SendsApart s t := by
  obtain ⟨rfl, -⟩ | ⟨-, -, hreserved⟩ | ⟨rfl, -⟩ := txStep_next h
  · exact .refl hcode
  · simp [txReserved_eq_false_iff.mpr hcode] at hreserved
  · exact hafter

theorem sendsApart_of_tx (hcode : s.tx.state.toNat < 5) (hi : i.agent = .tx) (h : exec i s = .next t) : SendsApart s t := by
  cases i with
  | txAwaitCsHigh | txAwaitCsLow | txLoad | txWaitRise => exact sendsApart_of_txStep hcode ⟨rfl, by simp⟩ h
  | txWaitFall =>
    refine sendsApart_of_txStep hcode ⟨rfl, ?_⟩ h
    change BitVec.toNat (if _ then _ else _) < 5
    split <;> decide
  | _ => cases hi

theorem sendsApart_of_wreXfer (hcode : s.tx.state.toNat < 5) (h : exec .wreXfer s = .next t) : SendsApart s t := by
  by_cases hmay : s.wreMayFeed = true
  · obtain ⟨n, hn⟩ := s.wreTake_snd
    rw [exec_wreXfer_of_mayFeed hmay, hn] at h
    cases h
    exact ⟨rfl, hcode⟩
  · cases (exec_wreXfer_of_not_mayFeed hmay).symm.trans h
    exact .refl hcode

theorem sendsApart_of_takeStep (hcode : s.tx.state.toNat < 5) (hi : SendStep i) (h : takeStep i s = .next t) :
    SendsApart s t := by
  unfold takeStep at h
  split at h
  · cases h
    exact .refl hcode
  · obtain htx | hwre := hi
    · exact sendsApart_of_tx hcode htx h
    · cases i with
      | wreXfer => exact sendsApart_of_wreXfer hcode h
      | wreConfig | wreActivate | wreDeactivate => exact absurd rfl ‹_›
      | _ => cases hwre

/-! A step of the frame -/

theorem follows_next (h : u = t.withSend u) (hcode : u.tx.state = o.tx.state) : Follows o (.next t) (.next u) := by
  intro v hv
  cases hv
  exact ⟨u, rfl, h, hcode⟩

theorem follows_next_withSend : Follows o (.next t) (.next (t.withSend o)) := follows_next rfl rfl

theorem follows_next_of_eq (h : u = t.withSend o) : Follows o (.next t) (.next u) := h ▸ follows_next_withSend

theorem follows_raise : Follows o (raise f s) (raise f (s.withSend o)) := follows_next rfl rfl

theorem follows_ite [Decidable c] (h : Follows o a a') (h' : Follows o b b') :
    Follows o (if c then a else b) (if c then a' else b') := by
  split
  · exact h
  · exact h'

theorem follows_eotStep {enabled : Bool} (h : Follows o a a') :
    Follows o (eotStep s enabled a) (eotStep (s.withSend o) enabled a') :=
  follows_ite follows_next_withSend (follows_ite follows_raise (follows_ite h follows_next_withSend))

theorem follows_wireStep (h : u = t.withSend u) (hcode : u.tx.state = o.tx.state) :
    Follows o (wireStep s t) (wireStep (s.withSend o) u) :=
  follows_ite (follows_next h hcode) follows_next_withSend

theorem follows_rx (hi : i.agent = .rx) : Follows o (exec i s) (exec i (s.withSend o)) := by
  intro t ht
  obtain ⟨u, hu⟩ := Proofs.everyStepAnswersNext i (s.withSend o)
  have halike : RxReadsAlike s (s.withSend o) := ⟨rfl, rfl, rfl, rfl, rfl, rfl, rfl, rfl, rfl⟩
  have ⟨hrx, hrxin, hrxout, hfault⟩ := halike.writesAlike_of_exec hi ht hu
  have hrest := (rxFrame_of_exec hu hi).rest
  rw [hrx, hrxin, hrxout, hfault] at hrest
  refine ⟨u, hu, ?_, by rw [hrest]; rfl⟩
  rw [hrest, (rxFrame_of_exec ht hi).rest]
  rfl

theorem follows_rdeXfer : Follows o (exec .rdeXfer s) (exec .rdeXfer (s.withSend o)) :=
  follows_ite (follows_next rfl rfl) follows_next_withSend

theorem State.deactivateWre_frame : s.deactivateWre = { s with wre := s.deactivateWre.wre } := by
  unfold State.deactivateWre
  split <;> rfl

theorem State.deactivateSeq_tx_frame : s.deactivateSeq .tx = { s with tx := (s.deactivateSeq .tx).tx } := by
  simp only [State.deactivateSeq]
  split <;> rfl

theorem State.deactivateSeq_tx_state : (s.deactivateSeq .tx).tx.state = s.tx.state := by
  rw [State.deactivateSeq_tx_tx]
  split <;> rfl

theorem follows_handler (hi : i ∈ handlerSteps) : Follows o (exec i s) (exec i (s.withSend o)) := by
  cases i with
  | eotEntry | eotPlaceholder | eotSignal => exact follows_eotStep follows_next_withSend
  | eotStopEngines =>
    refine follows_eotStep (follows_next ?_ ?_)
    · rw [s.deactivateRde.deactivateWre_frame, (s.withSend o).deactivateRde.deactivateWre_frame]; rfl
    · rw [(s.withSend o).deactivateRde.deactivateWre_frame]; rfl
  | eotCheck => exact follows_eotStep (follows_ite (follows_next rfl rfl) follows_next_withSend)
  | eotAccount =>
    have hb : (s.withSend o).xfer.b = s.xfer.b := rfl
    refine follows_eotStep ?_
    rw [hb]
    rcases s.xfer.b with _ | b
    · exact follows_raise
    · exact follows_next_withSend
  | eotStopSeq =>
    refine follows_eotStep (follows_next ?_ ?_)
    · rw [(s.deactivateSeq .rx).deactivateSeq_tx_frame, ((s.withSend o).deactivateSeq .rx).deactivateSeq_tx_frame]; rfl
    · exact State.deactivateSeq_tx_state
  | eotCallback => exact follows_eotStep (follows_ite (follows_ite follows_raise follows_next_withSend) follows_next_withSend)
  | _ => simp [handlerSteps] at hi

theorem State.csEdge_withSend {old new : Level} : (s.withSend o).csEdge old new = (s.csEdge old new).withSend o := by
  unfold State.csEdge
  rw [apply_ite (State.withSend · o)]
  rfl

theorem follows_wireCs {v : Level} : Follows o (exec (.wireCs v) s) (exec (.wireCs v) (s.withSend o)) := by
  have hedge := State.csEdge_withSend (s := { s with pins := { s.pins with cs := v } }) (o := o) (old := s.pins.cs) (new := v)
  exact follows_ite (follows_next_of_eq hedge) follows_next_withSend

/-- A step of the frame neither reads nor undoes what TX and WRE write. -/
theorem follows_takeStep (hi : FrameStep i) : Follows o (takeStep i s) (takeStep i (s.withSend o)) := by
  refine follows_ite follows_next_withSend ?_
  obtain hrx | rfl | hhandler | ⟨v, rfl | rfl | rfl⟩ := hi
  · exact follows_rx hrx
  · exact follows_rdeXfer
  · exact follows_handler hhandler
  · exact follows_wireCs
  · exact follows_wireStep rfl rfl
  · exact follows_wireStep rfl rfl

/-! The run -/

/-- The frame's own steps, those of TX and WRE left out. -/
def ownSteps (is : List Instr) : List Instr := is.filter fun i => i.agent != Agent.tx && i.agent != Agent.wre

theorem SendsApart.step (h : SendsApart s u) (hi : FrameStep i) (hs : takeStep i s = .next t) :
    ∃ v, takeStep i u = .next v ∧ SendsApart t v := by
  obtain ⟨v, hv, hrest, hcode⟩ := follows_takeStep (o := u) hi t hs
  rw [← h.rest] at hv
  exact ⟨v, hv, hrest, hcode ▸ h.code⟩

/-- Steps of TX and WRE anywhere in a run of frame steps change nothing but what TX and WRE write. -/
theorem SendsApart.run (h : SendsApart s u) (hframe : ∀ i ∈ ownSteps is, FrameStep i)
    (hrun : runSteps (ownSteps is) s = .next t) : ∃ v, runSteps is u = .next v ∧ SendsApart t v := by
  induction is generalizing s u with
  | nil =>
    cases hrun
    exact ⟨u, rfl, h⟩
  | cons i is ih =>
    by_cases hi : SendStep i
    · have hown : ownSteps (i :: is) = ownSteps is := List.filter_cons_of_neg (by simpa [SendStep, imp_iff_not_or] using hi)
      rw [hown] at hframe hrun
      obtain ⟨v, hv⟩ := takeStep_next i u
      rw [runSteps_cons hv]
      exact ih (h.trans (sendsApart_of_takeStep h.code hi hv)) hframe hrun
    · have hown : ownSteps (i :: is) = i :: ownSteps is := List.filter_cons_of_pos (by simpa [SendStep] using hi)
      rw [hown] at hframe hrun
      obtain ⟨w, hw⟩ := takeStep_next i s
      rw [runSteps_cons hw] at hrun
      obtain ⟨v, hv, hapart⟩ := h.step (hframe i List.mem_cons_self) hw
      rw [runSteps_cons hv]
      exact ih hapart (fun j hj => hframe j (List.mem_cons_of_mem i hj)) hrun

theorem SendsApart.accounted {n : Int} {m : Memory} (h : SendsApart s u) (hs : Accounted n m s) : Accounted n m u := by
  obtain ⟨houtcome, hmem, hflag, hphase, hfault, hrx, hrde⟩ := hs
  rw [h.rest]
  exact ⟨houtcome, hmem, hflag, hphase, hfault, hrx, hrde⟩

theorem frameStep_of_mem_bitSteps {c : Level} (hi : i ∈ bitSteps c) : FrameStep i := by
  simp only [bitSteps, List.mem_cons, List.not_mem_nil, or_false] at hi
  obtain rfl | rfl | rfl | rfl | rfl := hi <;> simp [FrameStep, Instr.agent]

theorem frameStep_of_mem_frameSteps {bytes : List Byte} {tail : List Level} (hi : i ∈ frameSteps bytes tail) : FrameStep i := by
  simp only [frameSteps, byteSteps, List.mem_append, List.mem_flatMap, List.mem_cons, List.not_mem_nil, or_false] at hi
  obtain ((hopen | ⟨x, -, ⟨c, -, hbit⟩ | hdone⟩) | ⟨c, -, hbit⟩) | hclose := hi
  · obtain rfl | rfl := hopen <;> simp [FrameStep, Instr.agent]
  · exact frameStep_of_mem_bitSteps hbit
  · obtain rfl | rfl := hdone <;> simp [FrameStep, Instr.agent]
  · exact frameStep_of_mem_bitSteps hbit
  · obtain rfl | rfl | rfl | rfl | rfl | rfl | rfl | rfl | rfl | rfl | rfl := hclose <;>
      simp [FrameStep, Instr.agent, handlerSteps]

end Sys2Proof.Machine
end

section
namespace Sys2Proof.Proofs

open Sys2Proof.Machine

/-- Settles O38: one walk along the frame gives the run and its turns under PRIO; steps of TX and WRE in between write nothing
that the frame's own steps read (43_end_of_transfer.md R190, 70_reset_and_hazards.md R343). -/
theorem handlerCountLaw : Obligations.HandlerCountLaw := by
  refine ⟨fun s b bytes tail is hready hwf htail hcode hsteps => ?_,
    fun s b bytes tail hready htail hduplex hflag hholder => ?_⟩
  · obtain ⟨u, hwalk, hu⟩ := exists_walk_frame (calm := False) (bytes := bytes) False.elim hready htail
    have hown : ownSteps is = frameSteps bytes tail := hsteps
    obtain ⟨t, hrun, ht⟩ := (SendsApart.refl hcode).run (fun i hi => frameStep_of_mem_frameSteps (hown ▸ hi))
      (hown ▸ hwalk.runSteps)
    obtain ⟨houtcome, hmem, hflag, hphase, hfault, hrx, hrde⟩ := ht.accounted hu
    refine ⟨t, hrun, houtcome, fun k x hk hx => ?_, fun a ha => ?_, hflag, hphase, hfault, hrx, hrde⟩
    · exact State.memRead_of_store_inside hwf hmem hk hx
    · exact State.memRead_of_store_outside hwf hmem ha
  · have hcalm : s.Calm := ⟨hduplex, hflag, hready.slot, hholder⟩
    obtain ⟨u, hwalk, -⟩ := exists_walk_frame (bytes := bytes) id hready htail
    exact hwalk.prioRun hcalm

end Sys2Proof.Proofs
end

section
/-! The host commands (44_facade.md): a task that may start a command, a task in the middle of one, and the lifecycle checks
(R205, R206). -/

namespace Sys2Proof.Machine

variable {s : State} {i : Instr} {t : TaskId} {c : Command} {p : Phase} {f : FaultCode} {out : Out}

theorem raise_of_fault_eq_none (h : s.fault = none) : raise f s = .next { s with fault := some f } := by simp [raise, h]

theorem State.TaskFree.fault_eq_none (h : s.TaskFree t) : s.fault = none := have ⟨hfault, _⟩ := h; hfault

theorem State.TaskFree.mayStart (h : s.TaskFree t) : s.mayStart t = true := State.mayStart_iff.mpr h

theorem State.TaskFree.not_mayContinue (h : s.TaskFree t) : ¬ s.mayContinue t = true := by
  obtain ⟨_, _, hholder, _⟩ := h
  simp [State.mayContinue, hholder]

theorem State.TaskFree.endCommand_eq (h : s.TaskFree t) (hwf : Tab.wf .idle s.tasks = true) : s.endCommand t = s :=
  have ⟨_, _, hholder, htask⟩ := h
  State.endCommand_of_free hwf htask hholder

theorem State.TaskFree.returnValue_eq {v : Value} (h : s.TaskFree t) (hwf : Tab.wf .idle s.tasks = true) :
    s.returnValue t v = { s with log := s.log ++ [.result t v] } := by
  rw [State.returnValue, h.endCommand_eq hwf]; rfl

theorem State.TaskFree.returnError_eq {e : ErrorCode} (h : s.TaskFree t) (hwf : Tab.wf .idle s.tasks = true) :
    returnError t e s = .next { s with log := s.log ++ [.error t e] } := by
  rw [returnError, h.endCommand_eq hwf]; rfl

theorem State.TaskAt.mayContinue (h : s.TaskAt t c p) : s.mayContinue t = true :=
  have ⟨hfault, hphase, hholder, _⟩ := h
  State.mayContinue_iff.mpr ⟨hfault, hphase, hholder⟩

theorem State.TaskAt.task_eq (h : s.TaskAt t c p) : s.task t = .busy c p := have ⟨_, _, _, htask⟩ := h; htask

theorem State.lifeCheck_of_live (h : s.life = .live) : s.lifeCheck = none := by simp [State.lifeCheck, h]

theorem State.lifeCheck_of_unbuilt (h : s.life = .unbuilt) : s.lifeCheck = some .notConstructed := by simp [State.lifeCheck, h]

theorem State.lifeCheck_of_dead (h : s.life = .dead) : s.lifeCheck = some .useAfterDeinit := by simp [State.lifeCheck, h]

theorem startChecked_of_live (hfree : s.TaskFree t) (hlive : s.life = .live) : startChecked t s out = out := by
  rw [startChecked, if_pos hfree.mayStart, State.lifeCheck_of_live hlive]

theorem startChecked_of_lifeCheck (hfree : s.TaskFree t) (h : s.lifeCheck = some f) :
    startChecked t s out = .next { s with fault := some f } := by
  rw [startChecked, if_pos hfree.mayStart, h]
  exact raise_of_fault_eq_none hfree.fault_eq_none

/-- The lifecycle checks of every host command: CONSTRUCT makes the one on a DEAD device, DEINIT the one on an UNBUILT device,
MEM_READ none (R206, 60_exceptions.md R302, R314). -/
theorem exec_command_of_lifeCheck (hi : i.agent = .host) (ht : i.task? = some t) (hfree : s.TaskFree t)
    (h : s.lifeCheck = some f) (hconstruct : ∀ c b x p cb q, i = .construct t c b x p cb q → s.life = .dead)
    (hdeinit : i = .deinit t → s.life = .unbuilt) (hmem : ∀ a, i ≠ .memRead t a) :
    exec i s = .next { s with fault := some f } := by
  have hraise : raise f s = .next { s with fault := some f } := raise_of_fault_eq_none hfree.fault_eq_none
  cases i with
  | construct =>
    cases ht
    have hdead := hconstruct _ _ _ _ _ _ rfl
    obtain rfl : FaultCode.useAfterDeinit = f := Option.some.inj ((State.lifeCheck_of_dead hdead).symm.trans h)
    simpa only [exec, execConstruct, if_pos hfree.mayStart, hdead] using hraise
  | deinit =>
    cases ht
    have hunbuilt := hdeinit rfl
    obtain rfl : FaultCode.notConstructed = f := Option.some.inj ((State.lifeCheck_of_unbuilt hunbuilt).symm.trans h)
    simpa only [exec, execDeinit, if_pos hfree.mayStart, hunbuilt] using hraise
  | arm =>
    cases ht
    rw [exec_arm_of_atArm (.inl ⟨hfree, rfl⟩)]
    exact armA1_of_fault hfree.fault_eq_none (by simp only [armFault, h])
  | write => cases ht; exact startChecked_of_lifeCheck hfree h
  | read | readInto | asReadInto | iterStep | outcomeRead =>
    cases ht
    exact (if_neg hfree.not_mayContinue).trans (startChecked_of_lifeCheck hfree h)
  | memRead => cases ht; exact absurd rfl (hmem _)
  | _ => cases hi

end Sys2Proof.Machine
end

section
namespace Sys2Proof.Proofs

open Sys2Proof.Machine

/-- Settles O47: each command tests the scheduler, then LIFE, before anything else (44_facade.md R206, 60_exceptions.md R302,
R314). -/
theorem lifecycleChecksComeFirst : Obligations.LifecycleChecksComeFirst := by
  intro i s t hi ht hfree
  refine ⟨fun hlife hconstruct hmem => ?_, fun hlife hdeinit hmem => ?_, rfl, rfl⟩
  · exact exec_command_of_lifeCheck hi ht hfree (State.lifeCheck_of_unbuilt hlife)
      (fun c b x p cb q h => absurd h (hconstruct c b x p cb q)) (fun _ => hlife) hmem
  · exact exec_command_of_lifeCheck hi ht hfree (State.lifeCheck_of_dead hlife)
      (fun _ _ _ _ _ _ _ => hlife) (fun h => absurd h hdeinit) hmem

end Sys2Proof.Proofs
end

section
/-! What each host command does for a free task, and at the phases of its own (44_facade.md R210 to R219). -/

namespace Sys2Proof.Machine

variable {s : State} {t : TaskId} {c : Command} {a : Addr}

/-! CONSTRUCT (R210) -/

theorem cfgOf_eq {cap : Option Nat} {buf : Addr} {index : Nat} {pins : PinIds} {cb : Option Nat} {irq : IrqMode} :
    cfgOf cap buf index pins cb irq =
      ⟨cap, buf, index, pins, decide (pins.miso ≠ none), decide (cb ≠ none), cb, irq⟩ := by
  simp only [cfgOf, ← Option.isSome_iff_ne_none, Bool.decide_coe]

/-! WRITE (R211) -/

theorem addr_add_one_add_ofNat (a : Addr) (k : Nat) : a + 1 + BitVec.ofNat 32 k = a + BitVec.ofNat 32 (k + 1) := by bv_omega

/-- Reads outside the race window are the bytes of memory, and change nothing (20_memory.md R68). -/
theorem State.hostReadMany_of_not_raced {n : Nat} (h : ∀ k, k < n → s.raced (a + BitVec.ofNat 32 k) = false) :
    State.hostReadMany n a s = ((List.range n).map fun k => s.memRead (a + BitVec.ofNat 32 k), s) := by
  induction n generalizing a with
  | zero => rfl
  | succ n ih =>
    have hfirst : s.raced a = false := by simpa using h 0 (Nat.succ_pos n)
    have hrest := ih (a := a + 1) fun k hk => by rw [addr_add_one_add_ofNat]; exact h (k + 1) (Nat.succ_lt_succ hk)
    have htail (k : Nat) : s.memRead (a + 1 + BitVec.ofNat 32 k) = s.memRead (a + BitVec.ofNat 32 (k + 1)) :=
      congrArg s.memRead (addr_add_one_add_ofNat a k)
    simp only [State.hostReadMany, State.hostRead_of_not_raced hfirst, hrest, htail, List.range_succ_eq_map, List.map_cons,
      List.map_map, Function.comp_def, Nat.succ_eq_add_one, BitVec.add_zero]

theorem exec_write_of_pass {len : Nat} {repeats : Int} (hfree : s.TaskFree t) (hlive : s.life = .live)
    (hwf : Tab.wf .idle s.tasks = true) (hduplex : s.cfg.duplex = true) (hrepeats : -1 ≤ repeats) :
    exec (.write t a len repeats) s =
      .next { (s.hostReadMany len a).2 with stg := ⟨true, (s.hostReadMany len a).1, repeats⟩ } := by
  obtain ⟨n, hn⟩ := State.hostReadMany_snd len a s
  have hfree' : ({ s with stg := ⟨true, (s.hostReadMany len a).1, repeats⟩, draws := n } : State).TaskFree t := hfree
  have hend := hfree'.endCommand_eq hwf
  simp only [exec, execWrite, startChecked_of_live hfree hlive, hduplex, Bool.true_eq_false, if_false,
    if_neg (not_lt.mpr hrepeats), hn, hend]

/-! The read commands (R212 to R215, R219) -/

theorem exec_read_of_free (hfree : s.TaskFree t) (hlive : s.life = .live) :
    exec (.read t) s =
      if s.cfg.cap = none then returnError t .noBuffer s else .next (s.atPhase t .read (.arming .a1)) :=
  (if_neg hfree.not_mayContinue).trans (startChecked_of_live hfree hlive)

theorem exec_iterStep_of_free (hfree : s.TaskFree t) (hlive : s.life = .live) :
    exec (.iterStep t) s =
      if s.cfg.cap = none then returnError t .noBuffer s else .next (s.atPhase t .iterStep (.arming .a1)) :=
  (if_neg hfree.not_mayContinue).trans (startChecked_of_live hfree hlive)

theorem exec_readInto_of_free {len : Nat} (hfree : s.TaskFree t) (hlive : s.life = .live) :
    exec (.readInto t a len) s =
      if s.cfg.hasCb = false then returnError t .noCallback s else .next (s.atPhase t (.readInto a len) (.arming .a1)) :=
  (if_neg hfree.not_mayContinue).trans (startChecked_of_live hfree hlive)

theorem exec_asReadInto_of_free {len : Nat} (hfree : s.TaskFree t) (hlive : s.life = .live) :
    exec (.asReadInto t a len) s = .next (s.atPhase t (.asReadInto a len) (.arming .a1)) :=
  (if_neg hfree.not_mayContinue).trans (startChecked_of_live hfree hlive)

theorem exec_read_of_spinning (h : s.TaskAt t .read .spinning) : exec (.read t) s = .next (s.setTask t .spin) := by
  simp only [exec, execRead, if_pos h.mayContinue, h.task_eq]

theorem exec_read_of_returning {n : Int} (h : s.TaskAt t .read (.returning n)) : exec (.read t) s = returnView t n s := by
  simp only [exec, execRead, if_pos h.mayContinue, h.task_eq]

theorem exec_iterStep_of_returning {n : Int} (h : s.TaskAt t .iterStep (.returning n)) :
    exec (.iterStep t) s = returnView t n s := by
  simp only [exec, execIterStep, if_pos h.mayContinue, h.task_eq]

theorem exec_readInto_of_leaving {dst : Addr} {len len' : Nat} (h : s.TaskAt t (.readInto dst len) .leaving) :
    exec (.readInto t a len') s = .next (s.endCommand t) := by
  simp only [exec, execReadInto, if_pos h.mayContinue, h.task_eq]

theorem exec_asReadInto_of_returning {dst : Addr} {len len' : Nat} {n : Int}
    (h : s.TaskAt t (.asReadInto dst len) (.returning n)) :
    exec (.asReadInto t a len') s = .next (s.returnValue t (.count n)) := by
  simp only [exec, execAsReadInto, if_pos h.mayContinue, h.task_eq]

/-! DEINIT (R216) -/

theorem State.TaskFree.tornDown (h : s.TaskFree t) : s.tornDown.TaskFree t := by
  rw [State.tornDown, State.stopAll_eq]; exact h

theorem State.tornDown_tasks : s.tornDown.tasks = s.tasks := by rw [State.tornDown, State.stopAll_eq]

theorem exec_deinit_of_free (hfree : s.TaskFree t) (hlife : s.life ≠ .unbuilt) (hwf : Tab.wf .idle s.tasks = true) :
    exec (.deinit t) s = .next s.tornDown := by
  have hend : s.tornDown.endCommand t = s.tornDown := hfree.tornDown.endCommand_eq (by rw [State.tornDown_tasks]; exact hwf)
  rw [exec, execDeinit, if_pos hfree.mayStart]
  split
  · contradiction
  · exact congrArg _ hend

/-- DEINIT does the same to a device without a data-out pin, where TX and WRE do not run. -/
theorem State.NoDataOut.tornDown_eq (h : s.NoDataOut) :
    s.tornDown =
      { s with rde := { s.rde with active := false }, wre := { s.wre with active := false },
               rx := { s.rx with active := false }, tx := { s.tx with active := false },
               irq := ⟨false, false⟩, life := .dead } := by
  rw [State.tornDown, State.stopAll_eq]
  rcases hd : s.cfg.duplex
  · obtain ⟨htx, hwre, _⟩ := h hd
    have htx' : s.tx = { s.tx with active := false } := by rw [← htx]
    have hwre' : s.wre = { s.wre with active := false } := by rw [← hwre]
    rw [← htx', ← hwre']; rfl
  · rfl

theorem State.tornDown_tornDown : s.tornDown.tornDown = s.tornDown := by
  rcases hd : s.cfg.duplex <;> simp [State.tornDown, State.stopAll_eq, hd]

/-! OUTCOME_READ (R217) -/

theorem exec_outcomeRead_of_free {n : Int} (hfree : s.TaskFree t) (hlive : s.life = .live) (h : s.outcome = some n) :
    exec (.outcomeRead t) s = .next (s.returnValue t (.count n)) := by
  simp only [exec, execOutcomeRead, if_neg hfree.not_mayContinue, startChecked_of_live hfree hlive, h]

theorem exec_outcomeRead_of_taskAt {n : Int} (hat : s.TaskAt t c .outcome) (h : s.outcome = some n) :
    exec (.outcomeRead t) s = .next (s.atPhase t c (.returning n)) := by
  simp only [exec, execOutcomeRead, if_pos hat.mayContinue, hat.task_eq, h]

/-- As a command or as a phase of one, OUTCOME_READ faults on an unwritten outcome (60_exceptions.md R309). -/
theorem exec_outcomeRead_of_unwritten (hat : (s.TaskFree t ∧ s.life = .live) ∨ s.TaskAt t c .outcome)
    (h : s.outcome = none) : exec (.outcomeRead t) s = .next { s with fault := some .outcomeUnwritten } := by
  obtain ⟨hfree, hlive⟩ | hat := hat
  · rw [← raise_of_fault_eq_none hfree.fault_eq_none]
    simp only [exec, execOutcomeRead, if_neg hfree.not_mayContinue, startChecked_of_live hfree hlive, h]
  · have ⟨hfault, _⟩ := hat
    rw [← raise_of_fault_eq_none hfault]
    simp only [exec, execOutcomeRead, if_pos hat.mayContinue, hat.task_eq, h]

/-! MEM_READ (R218) -/

theorem State.raced_of_outside
    (h : s.window = none ∨ s.xfer.b = none ∨ ∃ b, s.xfer.b = some b ∧ b.toNat ≤ (a - s.xfer.dst).toNat) :
    s.raced a = false := by
  obtain hwindow | hb | ⟨b, hb, hout⟩ := h
  · simp [State.raced, hwindow]
  · simp [State.raced, hb]
  · have hregion : inRegion s.xfer.dst b a = false := decide_eq_false (Nat.not_lt.mpr hout)
    simp [State.raced, hb, hregion]

end Sys2Proof.Machine
end

section
namespace Sys2Proof.Proofs

open Sys2Proof.Machine

/-- Settles O39: the checks in the order of 60_exceptions.md R319, then the values of 10_state.md R52 (44_facade.md R210). -/
theorem constructBuildsTheDevice : Obligations.ConstructBuildsTheDevice := by
  intro s t cap buf index pins cb irq hfree
  have hraise (f : FaultCode) : raise f s = .next { s with fault := some f } := raise_of_fault_eq_none hfree.fault_eq_none
  simp only [exec, execConstruct, if_pos hfree.mayStart]
  refine ⟨fun hdead => ?_, fun hlive => ?_, fun hunbuilt hhard => ?_, fun hunbuilt hsoft => ?_⟩
  · simp only [hdead, hraise]
  · simp only [hlive, hraise]
  · simp only [hunbuilt, hhard, hraise]
  · simp only [hunbuilt, hsoft, cfgOf_eq]
    rfl

/-- Settles O40: the checks in the order of 60_exceptions.md R319, then the bytes one by one (44_facade.md R211). -/
theorem writeStagesACopy : Obligations.WriteStagesACopy := by
  intro s t src len repeats hfree hlive
  have hstart : exec (.write t src len repeats) s = _ := startChecked_of_live hfree hlive
  have hraise (f : FaultCode) : raise f s = .next { s with fault := some f } := raise_of_fault_eq_none hfree.fault_eq_none
  refine ⟨fun hduplex => ?_, fun hduplex hrepeats => ?_, fun hduplex hrepeats hwf => ?_⟩
  · rw [hstart, if_pos hduplex, hraise]
  · rw [hstart, if_neg (by simp [hduplex]), if_pos hrepeats, hraise]
  · rw [exec_write_of_pass hfree hlive hwf hduplex hrepeats]
    refine ⟨?_, fun hquiet => by rw [State.hostReadMany_of_not_raced hquiet]⟩
    obtain ⟨n, hn⟩ := State.hostReadMany_snd len src s
    exact ⟨_, rfl, State.hostReadMany_length len src s, by rw [hn]⟩

/-- Settles O41, from the phases of READ and ITER_STEP that are their own (44_facade.md R212, R215, R219). -/
theorem bufferReadsStartAndReturn : Obligations.BufferReadsStartAndReturn := by
  refine ⟨fun s t i c hi hfree hlive hwf => ?_, fun s t hat hwf => ?_, fun s t i c n hi hat hwf => ?_⟩
  · have hexec : exec i s =
        if s.cfg.cap = none then returnError t .noBuffer s else .next (s.atPhase t c (.arming .a1)) := by
      obtain ⟨rfl, rfl⟩ | ⟨rfl, rfl⟩ := hi
      · exact exec_read_of_free hfree hlive
      · exact exec_iterStep_of_free hfree hlive
    rw [hexec]
    refine ⟨fun hcap => ?_, fun hcap => ?_⟩
    · rw [if_pos hcap, hfree.returnError_eq hwf]
    · rw [if_neg hcap]
      exact ⟨_, rfl, rfl, fun _ => State.task_atPhase hwf⟩
  · exact ⟨_, exec_read_of_spinning hat, rfl, fun _ => State.task_setTask hwf⟩
  · have hexec : exec i s = returnView t n s := by
      obtain ⟨rfl, rfl⟩ | ⟨rfl, rfl⟩ := hi
      · exact exec_read_of_returning hat
      · exact exec_iterStep_of_returning hat
    have ⟨hfault, _⟩ := hat
    rw [hexec, returnView]
    refine ⟨fun hneg => ?_, fun hnonneg => ?_⟩
    · rw [if_pos hneg, raise_of_fault_eq_none hfault]
    · rw [if_neg (not_lt.mpr hnonneg)]
      exact ⟨_, rfl, rfl, fun _ => State.task_endCommand hwf⟩

/-- Settles O42, from the phases of READ_INTO and AS_READ_INTO that are their own (44_facade.md R213, R214). -/
theorem callerReadsStartAndReturn : Obligations.CallerReadsStartAndReturn := by
  refine ⟨fun s t dst len hfree hlive hwf => ?_, fun s t dst dst' len len' hat hwf => ?_,
    fun s t dst dst' len len' n hat hwf => ?_⟩
  · rw [exec_readInto_of_free hfree hlive]
    refine ⟨fun hcb => ?_, fun hcb => ?_, ?_⟩
    · rw [if_pos hcb, hfree.returnError_eq hwf]
    · rw [if_neg (by simp [hcb])]
      exact ⟨_, rfl, rfl, fun _ => State.task_atPhase hwf⟩
    · exact ⟨_, exec_asReadInto_of_free hfree hlive, rfl, fun _ => State.task_atPhase hwf⟩
  · exact ⟨_, exec_readInto_of_leaving hat, rfl, fun _ => State.task_endCommand hwf⟩
  · exact ⟨_, exec_asReadInto_of_returning hat, rfl, fun _ => State.task_endCommand hwf⟩

/-- Settles O43: DEINIT stops everything, and stopping everything twice is stopping it once (44_facade.md R216). -/
theorem deinitTearsDown : Obligations.DeinitTearsDown := by
  refine ⟨fun s t hfree hlife => ?_, fun s t hfree hlife hinv hwf => ?_, fun s u t t' hfree hfree' hlife hwf hexec => ?_⟩
  · exact exec_command_of_lifeCheck rfl rfl hfree (State.lifeCheck_of_unbuilt hlife) (fun _ _ _ _ _ _ h => nomatch h)
      (fun _ => hlife) fun _ h => nomatch h
  · rw [exec_deinit_of_free hfree hlife hwf, hinv.noDataOut.tornDown_eq]
  · obtain rfl : s.tornDown = u := by
      rw [exec_deinit_of_free hfree hlife hwf] at hexec
      injection hexec
    have hwf' : Tab.wf .idle s.tornDown.tasks = true := by rw [State.tornDown_tasks]; exact hwf
    rw [exec_deinit_of_free hfree'.tornDown (by simp [State.tornDown]) hwf', State.tornDown_tornDown]

/-- Settles O44, by whether the outcome is written (44_facade.md R217, 60_exceptions.md R309). -/
theorem outcomeReadReturnsTheCount : Obligations.OutcomeReadReturnsTheCount := by
  refine ⟨fun s t hfree hlive hnone => exec_outcomeRead_of_unwritten (c := .read) (.inl ⟨hfree, hlive⟩) hnone,
    fun s t n hfree hlive hsome hwf => ?_, fun s t c hat hnone => exec_outcomeRead_of_unwritten (.inr hat) hnone,
    fun s t c n hat hsome hwf => ?_, rfl⟩
  · rw [exec_outcomeRead_of_free hfree hlive hsome, hfree.returnValue_eq hwf]
  · have ⟨_, _, hholder, _⟩ := hat
    exact ⟨_, exec_outcomeRead_of_taskAt hat hsome, by simp [State.atPhase, hholder], fun _ => State.task_atPhase hwf⟩

/-- Settles O45, by whether the read is a race (44_facade.md R218, 20_memory.md R68, R69). -/
theorem memReadReturnsTheByte : Obligations.MemReadReturnsTheByte := by
  intro s t a hfree hwf
  refine ⟨fun hout => ?_, fun b hwindow hb hin => ?_⟩
  · simp only [exec, execMemRead, if_pos hfree.mayStart, State.hostRead_of_not_raced (State.raced_of_outside hout)]
    exact congrArg _ (hfree.returnValue_eq hwf)
  · have hfree' : ({ s with draws := s.draws + 1 } : State).TaskFree t := hfree
    rw [exec_memRead_of_raced (State.raced_of_inside hwindow hb hin), if_pos hfree.mayStart, hfree'.returnValue_eq hwf]
    exact ⟨_, _, rfl⟩

end Sys2Proof.Proofs
end

section
/-! SIG.flag (45_completion_signal.md R247): which steps write it, and which way. -/

namespace Sys2Proof.Machine

variable {s t : State} {i : Instr} {k : TaskId} {c : Command} {p : ArmPhase}

/-- ARM clears the flag in phase A2, or leaves it (42_copy_engines.md R166). -/
theorem ArmEffect.flag_cases (h : ArmEffect k c s p t) : t.sig.flag = s.sig.flag ∨ t.sig.flag = false := by
  cases h with
  | a2 => exact .inr rfl
  | error => exact .inl rfl
  | a1 => exact .inl (by simp [State.stopAll])
  | a3 => exact .inl rfl
  | a4 => rw [armA4_frame]; exact .inl rfl
  | a5 => rw [armA5_eq]; exact .inl rfl
  | a6 => rw [armA6_eq]; exact .inl rfl
  | a7 => rw [armDone_frame]; exact .inl (by simp)

/-- The steps that agents take and that may clear the flag (R241, R243, R244, 10_state.md R52). -/
def ClearsFlag (i : Instr) : Prop :=
  (∃ k, i = .sigResume k) ∨ (∃ k, i = .sigPoll k) ∨ (∃ k d b m, i = .arm k d b m) ∨
    ∃ k c b x p cb q, i = .construct k c b x p cb q

/-- The flag is written by the two primitives, by EOT.SIGNAL, and by the steps that clear it. -/
theorem Effect.flag_cases (h : Effect s i t) :
    t.sig.flag = s.sig.flag ∨ (t.sig.flag = true ∧ (i = .sigSet ∨ i = .eotSignal)) ∨
      (t.sig.flag = false ∧ (i = .sigClear ∨ ClearsFlag i)) := by
  cases h with
  | sigSet => exact .inr (.inl ⟨rfl, .inl rfl⟩)
  | eotSignal => exact .inr (.inl ⟨rfl, .inr rfl⟩)
  | sigClear => exact .inr (.inr ⟨rfl, .inl rfl⟩)
  | @sigResume k => exact .inr (.inr ⟨by simp, .inr (.inl ⟨k, rfl⟩)⟩)
  | @sigPoll k => exact .inr (.inr ⟨by simp, .inr (.inr (.inl ⟨k, rfl⟩))⟩)
  | armStart _ ha | armPhase _ ha =>
    exact ha.flag_cases.imp_right fun hclear => .inr ⟨hclear, .inr (.inr (.inr (.inl ⟨_, _, _, _, rfl⟩)))⟩
  | construct => exact .inr (.inr ⟨rfl, .inr (.inr (.inr (.inr ⟨_, _, _, _, _, _, _, rfl⟩)))⟩)
  | deinit => exact .inl (by simp [State.stopAll])
  | _ => exact .inl (by simp)

/-- The same of the steps that agents take: SIG.SET and SIG.CLEAR are none of these (log entry 9). -/
theorem takeStep_flag_cases (h : takeStep i s = .next t) :
    t.sig.flag = s.sig.flag ∨ (t.sig.flag = true ∧ i = .eotSignal) ∨
      (t.sig.flag = false ∧ ClearsFlag i) := by
  obtain rfl | ⟨_, _, rfl⟩ | ⟨hpart, heffect⟩ := takeStep_effect h
  · exact .inl rfl
  · exact .inl rfl
  · obtain hkeep | ⟨hset, rfl | hi⟩ | ⟨hclear, rfl | hi⟩ := heffect.flag_cases
    · exact .inl hkeep
    · simp [Instr.isPart] at hpart
    · exact .inr (.inl ⟨hset, hi⟩)
    · simp [Instr.isPart] at hpart
    · exact .inr (.inr ⟨hclear, hi⟩)

end Sys2Proof.Machine
end

section
namespace Sys2Proof.Proofs

open Sys2Proof.Machine

/-- Settles O49: the two primitives on a live device, then the writers of the flag among the steps agents take
(45_completion_signal.md R240, R241, R247). -/
theorem flagWriters : Obligations.FlagWriters := by
  refine ⟨fun _ hsound => primStep_of_enabled hsound rfl, fun _ hsound => primStep_of_enabled hsound rfl,
    fun i s t h hbefore hafter => ?_, fun i s t h hbefore hafter => ?_⟩
  · obtain hkeep | ⟨_, hi⟩ | ⟨hclear, _⟩ := takeStep_flag_cases h
    · simp [hkeep, hbefore] at hafter
    · exact hi
    · simp [hclear] at hafter
  · obtain hkeep | ⟨hset, _⟩ | ⟨_, hi⟩ := takeStep_flag_cases h
    · simp [hkeep, hbefore] at hafter
    · simp [hset] at hafter
    · exact hi

end Sys2Proof.Proofs
end

section
/-! SIG.WAIT, SIG.RESUME and SIG.POLL (45_completion_signal.md R242 to R244), and DEFER.RUN (R245): each where it is enabled, and
where it holds. -/

namespace Sys2Proof.Machine

variable {s : State} {t w : TaskId} {c : Command}

/-! The race window (20_memory.md R69) -/

theorem State.observe_eq :
    s.observe t = { s with window := if s.window = some ⟨t, false⟩ then none else s.window } := by
  unfold State.observe
  split <;> rfl

theorem State.observeCallback_eq :
    s.observeCallback =
      { s with
        window := if s.deferOwn = true ∧ s.window.map Window.callback = some true then none else s.window
        deferOwn := false } := by
  unfold State.observeCallback
  simp only [Bool.and_eq_true, beq_iff_eq]
  split <;> rfl

/-! SIG.WAIT (R242) -/

/-- The state in which task t is parked in its command c. -/
def State.parked (s : State) (t : TaskId) (c : Command) : State :=
  { s.setTask t (.suspended c) with sig := { s.sig with waiter := some t }, holder := none }

theorem exec_sigWait_of_waiting (hat : s.TaskAt t c .waiting) (hwaiter : s.sig.waiter = none) :
    exec (.sigWait t) s = .next (s.parked t c) := by
  simp only [exec, execSigWait, if_pos hat.mayContinue, hat.task_eq, hwaiter, Option.isSome_none, Bool.false_eq_true,
    if_false, State.parked]

/-- A second waiter is a fault (60_exceptions.md R305). -/
theorem exec_sigWait_of_waiter (hat : s.TaskAt t c .waiting) (hwaiter : s.sig.waiter = some w) :
    exec (.sigWait t) s = .next { s with fault := some .secondWaiter } := by
  have ⟨hfault, _⟩ := hat
  rw [← raise_of_fault_eq_none hfault]
  simp only [exec, execSigWait, if_pos hat.mayContinue, hat.task_eq, hwaiter, Option.isSome_some, if_true]

theorem exec_sigWait_of_not_waiting (h : ∀ c, ¬ s.TaskAt t c .waiting) : exec (.sigWait t) s = .next s := by
  simp only [exec, execSigWait, hold]
  split
  · rename_i hmay
    obtain ⟨hfault, hphase, hholder⟩ := State.mayContinue_iff.mp hmay
    split
    · rename_i c htask
      exact absurd ⟨hfault, hphase, hholder, htask⟩ (h c)
    · rfl
  · rfl

theorem State.task_parked {k : TaskId} (hwf : Tab.wf .idle s.tasks = true) :
    (s.parked t c).task k = if k = t then .suspended c else s.task k := State.task_setTask hwf

/-! SIG.RESUME (R243) -/

/-- Task t is the waiter, parked in its command c, and may be resumed. -/
structure State.MayResume (s : State) (t : TaskId) (c : Command) : Prop where
  fault  : s.fault = none
  phase  : s.eotPhase = 0
  life   : s.life = .live
  holder : s.holder = none
  waiter : s.sig.waiter = some t
  flag   : s.sig.flag = true
  task   : s.task t = .suspended c

theorem exec_sigResume_of_mayResume (h : s.MayResume t c) :
    exec (.sigResume t) s = .next (({ s with sig := ⟨false, none⟩ }.observe t).atPhase t c .outcome) := by
  have hready : s.hostReady = true := State.hostReady_iff.mpr ⟨h.fault, h.phase⟩
  simp [exec, execSigResume, hready, h.life, h.holder, h.waiter, h.flag, h.task]

theorem exec_sigResume_of_no_flag (h : s.sig.flag = false) : exec (.sigResume t) s = .next s := by
  simp [exec, execSigResume, h, hold]

/-- A waiter parked at DEINIT is never resumed (44_facade.md R216, log entry 19). -/
theorem exec_sigResume_of_not_live (h : s.life ≠ .live) : exec (.sigResume t) s = .next s := by
  simp [exec, execSigResume, h, hold]

/-- A task parked with the flag 1 may be resumed at once (R246). -/
theorem State.TaskAt.mayResume_parked (hat : s.TaskAt t c .waiting) (hlife : s.life = .live) (hflag : s.sig.flag = true)
    (hwf : Tab.wf .idle s.tasks = true) : (s.parked t c).MayResume t c :=
  have ⟨hfault, hphase, _⟩ := hat
  ⟨hfault, hphase, hlife, rfl, rfl, hflag, (State.task_parked hwf).trans (if_pos rfl)⟩

/-! SIG.POLL (R244) -/

theorem exec_sigPoll_of_spin (hmay : s.mayContinue t = true) (hspin : s.task t = .spin) (hflag : s.sig.flag = true) :
    exec (.sigPoll t) s = .next ((s.clearFlag.observe t).setTask t (.busy .read .outcome)) := by
  simp [exec, execSigPoll, hmay, hspin, hflag]

theorem exec_sigPoll_of_no_flag (h : s.sig.flag = false) : exec (.sigPoll t) s = .next s := by
  simp [exec, execSigPoll, h, hold]

/-! DEFER.RUN (R245) -/

theorem exec_deferRun_of_free {n : Int} (hready : s.hostReady = true) (hholder : s.holder = none) (hdefer : s.defer = some n) :
    exec .deferRun s = .next ({ s with defer := none }.observeCallback.logEvent (.callback n)) := by
  simp [exec, execDeferRun, hready, hholder, hdefer]

theorem exec_deferRun_of_no_count (h : s.defer = none) : exec .deferRun s = .next s := by
  simp only [exec, execDeferRun, h, hold, ite_self]

end Sys2Proof.Machine
end

section
namespace Sys2Proof.Proofs

open Sys2Proof.Machine

/-- Settles O50, by whether a command of the task is at its wait, and whether a waiter is parked (45_completion_signal.md R242,
60_exceptions.md R305). -/
theorem sigWaitParks : Obligations.SigWaitParks :=
  ⟨fun _ _ _ hat hwaiter hwf => ⟨_, exec_sigWait_of_waiting hat hwaiter, rfl, fun _ => State.task_parked hwf⟩,
    fun _ _ _ _ hat hwaiter => exec_sigWait_of_waiter hat hwaiter, fun _ _ h => exec_sigWait_of_not_waiting h, rfl⟩

/-- Settles O51: both steps consume the flag where it is set, and hold where it is not (45_completion_signal.md R243, R244). -/
theorem flagIsConsumedOnce : Obligations.FlagIsConsumedOnce := by
  refine ⟨fun s t c hfault hphase hlife hholder hwaiter hflag htask hwf => ?_,
    fun s t hfault hphase hholder hspin hflag hwf => ?_,
    fun s t hflag => ⟨exec_sigResume_of_no_flag hflag, exec_sigPoll_of_no_flag hflag⟩,
    fun s t hlife => exec_sigResume_of_not_live hlife⟩
  · have hmay : s.MayResume t c := ⟨hfault, hphase, hlife, hholder, hwaiter, hflag, htask⟩
    rw [exec_sigResume_of_mayResume hmay, State.observe_eq]
    exact ⟨_, rfl, rfl, fun _ => State.task_atPhase hwf⟩
  · have hmay : s.mayContinue t = true := State.mayContinue_iff.mpr ⟨hfault, hphase, hholder⟩
    rw [exec_sigPoll_of_spin hmay hspin hflag, State.observe_eq]
    exact ⟨_, rfl, rfl, fun _ => State.task_setTask hwf⟩

/-- Settles O52: SIG.WAIT leaves the flag as it is, so SIG.RESUME is enabled next (45_completion_signal.md R246). -/
theorem setBeforeWaitIsObserved : Obligations.SetBeforeWaitIsObserved := by
  intro s t c hat hlife hwaiter hflag hwf
  have hwait : takeStep (.sigWait t) s = .next (s.parked t c) :=
    (takeStep_of_not_part rfl).trans (exec_sigWait_of_waiting hat hwaiter)
  have hresume := (takeStep_of_not_part rfl).trans (exec_sigResume_of_mayResume (hat.mayResume_parked hlife hflag hwf))
  have hwf' : Tab.wf .idle (s.parked t c).tasks = true := Tab.wf_set hwf
  refine ⟨_, (runSteps_cons hwait).trans (runSteps_cons hresume), ?_, rfl, by simp, by simp [State.parked]⟩
  rw [State.task_atPhase (by simpa using hwf'), if_pos rfl]

/-- Settles O53: the count is logged and the slot emptied where the scheduler is free, and the window closes by whose count it was
(45_completion_signal.md R245, 20_memory.md R69). -/
theorem deferRunCallsBack : Obligations.DeferRunCallsBack := by
  refine ⟨fun s n hfault hphase hholder hdefer => ?_, fun s h => ?_⟩
  · rw [exec_deferRun_of_free (State.hostReady_iff.mpr ⟨hfault, hphase⟩) hholder hdefer, State.observeCallback_eq]
    rfl
  · obtain hdefer | hholder | hphase := h
    · exact exec_deferRun_of_no_count hdefer
    · exact exec_deferRun_of_not_free (.inr hholder)
    · exact exec_deferRun_of_not_free (.inl (Bool.eq_false_iff.mpr fun hready => hphase (State.hostReady_iff.mp hready).2))

end Sys2Proof.Proofs
end

section
/-! The chip-select edge detector and the external master's steps, said once (43_end_of_transfer.md R180,
46_wire_master.md R260 to R263). -/

namespace Sys2Proof.Machine

variable {s t : State}

/-- The edge detector writes the latch and nothing else (43_end_of_transfer.md R180). -/
theorem State.csEdge_eq {old new : Level} :
    s.csEdge old new =
      { s with irq := { s.irq with pending :=
        if old = 0 ∧ new = 1 ∧ s.irq.bound = true ∧ s.life = .live ∧ s.fault = none then true else s.irq.pending } } := by
  simp only [State.csEdge, Bool.and_eq_true, beq_iff_eq, Option.isNone_iff_eq_none, and_assoc]
  split
  · rfl
  · rfl

theorem wireStep_of_fault_eq_none (h : s.fault = none) : wireStep s t = .next t := by simp [wireStep, h]

/-- The master reads the emitted bit while TX waits for the falling edge (R263). -/
theorem State.misoDefined_of_waitFall (hduplex : s.cfg.duplex = true) (hactive : s.tx.active = true) (hstate : s.tx.state = 4) :
    s.misoDefined = s.pins.miso := by simp [State.misoDefined, hduplex, hactive, hstate]

theorem exec_wireSample_of_defined {v : Level} (hfault : s.fault = none) (hmiso : s.misoDefined = some v) :
    exec .wireSample s = .next { s with ret := .level v } := by
  simp only [exec, execWireSample, hmiso, wireStep_of_fault_eq_none hfault]

/-- Where PIN.miso has no defined level for the master, the sample is the next free value (R263; log entry 14). -/
theorem exec_wireSample_of_undefined (hfault : s.fault = none) (hmiso : s.misoDefined = none) :
    exec .wireSample s = .next { s with ret := .level (Config.freeLevel s.draws), draws := s.draws + 1 } := by
  simp only [exec, execWireSample, hmiso, wireStep_of_fault_eq_none hfault]

end Sys2Proof.Machine
end

section
namespace Sys2Proof.Proofs

open Sys2Proof.Machine

/-- Settles O34: both steps are the edge detector, WIRE.CS with the level that the pin had before (46_wire_master.md R260,
43_end_of_transfer.md R180). -/
theorem chipSelectEdgeLatches : Obligations.ChipSelectEdgeLatches := by
  refine ⟨fun s v hfault => ?_, fun s o n => congrArg Host.Outcome.next State.csEdge_eq⟩
  have hstep : exec (.wireCs v) s = .next ({ s with pins := { s.pins with cs := v } }.csEdge s.pins.cs v) :=
    wireStep_of_fault_eq_none hfault
  simp only [hstep, State.csEdge_eq, hfault, and_true]

/-- Settles O54, the sample by whether PIN.miso has a defined level for the master (46_wire_master.md R261 to R263). -/
theorem masterDrivesAndSamples : Obligations.MasterDrivesAndSamples := by
  refine ⟨fun s v hfault => ⟨wireStep_of_fault_eq_none hfault, wireStep_of_fault_eq_none hfault⟩,
    fun s v hfault hduplex hactive hstate hmiso => ?_, fun s hfault => ?_⟩
  · exact exec_wireSample_of_defined hfault ((State.misoDefined_of_waitFall hduplex hactive hstate).trans hmiso)
  · cases hmiso : s.misoDefined with
    | some v => exact ⟨v, s.draws, exec_wireSample_of_defined hfault hmiso⟩
    | none => exact ⟨_, _, exec_wireSample_of_undefined hfault hmiso⟩

end Sys2Proof.Proofs
end

section
/-! Faults, final and stuck states (60_exceptions.md R300, 70_reset_and_hazards.md R356). -/

namespace Sys2Proof.Machine

variable {s t : State} {i : Instr} {k : TaskId} {c : Command} {p : ArmPhase}

/-! FAULT -/

theorem ArmEffect.fault_eq (h : ArmEffect k c s p t) : t.fault = s.fault := by
  cases h with
  | error | a2 | a3 => rfl
  | a1 => simp [State.stopAll]
  | a4 => rw [armA4_frame]; rfl
  | a5 => rw [armA5_eq]; rfl
  | a6 => rw [armA6_eq]; rfl
  | a7 => rw [armDone_frame]; simp

/-- An effect records no fault: a step that records one has no effect besides (R300). -/
theorem Effect.fault_eq (h : Effect s i t) : t.fault = s.fault := by
  cases h with
  | construct hstarts =>
    obtain ⟨hnone, _⟩ := hstarts
    exact hnone.symm
  | armStart _ ha | armPhase _ ha => exact ha.fault_eq
  | deinit => simp [State.stopAll]
  | _ => simp

/-! Quiet, final and stuck states, read off their definitions -/

theorem State.quiet_iff :
    s.quiet = true ↔ s.fault = none ∧ (∀ o ∈ s.script, ∃ i, o = some i ∧ i.agent ≠ .master) ∧
      allHeld hardwareSteps s = true ∧ allHeld handlerSteps s = true ∧ hostHeld (s.script.filterMap id) s = true := by
  simp [State.quiet, Option.any_eq_true, and_assoc]

theorem State.quiet_eq_false_of_fault (h : s.fault ≠ none) : s.quiet = false := by
  simp [State.quiet, Option.isNone_eq_false_iff.mpr (Option.isSome_iff_ne_none.mpr h)]

theorem State.final_iff :
    s.final = true ↔ s.quiet = true ∧ s.irq.pending = false ∧ s.eotPhase = 0 ∧ s.defer = none ∧ s.tasks = [] ∧
      s.holder = none ∧ s.sig.waiter = none := by
  simp [State.final, and_assoc]

theorem State.stuck_iff :
    s.stuck = true ↔ s.quiet = true ∧
      ¬ (s.sig.waiter = none ∧ s.holder = none ∧ s.irq.pending = false ∧ s.eotPhase = 0) := by
  simp [State.stuck, Option.isSome_iff_ne_none, not_and_or, -not_and, or_assoc]

/-- Where nothing more happens PRIO would let the master step. -/
theorem State.prio_of_quiet (h : s.quiet = true) : prio .wireSample (s.script.filterMap id) s = true := by
  obtain ⟨_, _, hhardware, hhandler, hhost⟩ := State.quiet_iff.mp h
  have hprio : prio .wireSample (s.script.filterMap id) s =
      (allHeld hardwareSteps s && allHeld handlerSteps s && hostHeld (s.script.filterMap id) s) := rfl
  rw [hprio, hhardware, hhandler, hhost, Bool.and_self, Bool.and_self]

/-- Where nothing more happens no step still to come has an effect: the script holds none of the master's, and the master would
only step where no other agent's step is enabled. -/
theorem takeStep_of_quiet (h : s.quiet = true) (hi : some i ∈ s.script) : takeStep i s = .next s := by
  obtain ⟨_, hscript, _⟩ := State.quiet_iff.mp h
  obtain ⟨j, hj, hmaster⟩ := hscript _ hi
  obtain rfl := Option.some.inj hj
  exact takeStep_of_prio_master rfl (State.prio_of_quiet h) (List.mem_filterMap.mpr ⟨some i, hi, rfl⟩) hmaster

/-- Where no step of host context can be taken and the scheduler is free, no callback is scheduled: DEFER.RUN would run it
(45_completion_signal.md R245). -/
theorem State.defer_eq_none_of_hostHeld {script : List Instr} (hheld : hostHeld script s = true) (hready : s.hostReady = true)
    (hholder : s.holder = none) : s.defer = none := by
  simp only [hostHeld, Bool.and_eq_true] at hheld
  obtain ⟨hpending, _⟩ := hheld
  have hstays : exec .deferRun s = .next s := takeStep_of_allHeld hpending (i := .deferRun) (by simp [pendingHostSteps])
  cases hdefer : s.defer with
  | none => rfl
  | some n =>
    rw [exec_deferRun_of_free hready hholder hdefer] at hstays
    injection hstays with hstays
    simpa [hdefer] using congrArg State.defer hstays

/-- With no holder and no waiter the task table is empty (10_state.md R47). -/
theorem HostInv.tasks_eq_nil (hs : HostInv s) (hwf : Tab.wf .idle s.tasks = true) (hholder : s.holder = none)
    (hwaiter : s.sig.waiter = none) : s.tasks = [] := by
  have hidle (k : TaskId) : s.task k = .idle := by
    have hfits := hostInv_iff.mp hs k
    cases htask : s.task k <;> simp [htask, TaskFits, hholder, hwaiter] at hfits ⊢
  cases htasks : s.tasks with
  | nil => rfl
  | cons e m =>
    obtain ⟨k, x⟩ := e
    obtain ⟨hx, _⟩ := Tab.wf_cons.mp (htasks ▸ hwf)
    exact absurd (by simpa [State.task, htasks, Tab.get] using hidle k) hx

/-- A state where nothing more happens is final if no task and no interrupt waits, and stuck otherwise. -/
theorem State.final_or_stuck_of_quiet (h : s.quiet = true) (hs : HostInv s) (hwf : Tab.wf .idle s.tasks = true) :
    s.final = true ∨ s.stuck = true := by
  by_cases hwaits : s.sig.waiter = none ∧ s.holder = none ∧ s.irq.pending = false ∧ s.eotPhase = 0
  · obtain ⟨hwaiter, hholder, hpending, hphase⟩ := hwaits
    obtain ⟨hfault, _, _, _, hhost⟩ := State.quiet_iff.mp h
    have hdefer := State.defer_eq_none_of_hostHeld hhost (State.hostReady_iff.mpr ⟨hfault, hphase⟩) hholder
    exact .inl (State.final_iff.mpr
      ⟨h, hpending, hphase, hdefer, hs.tasks_eq_nil hwf hholder hwaiter, hholder, hwaiter⟩)
  · exact .inr (State.stuck_iff.mpr ⟨h, hwaits⟩)

end Sys2Proof.Machine
end

section
/-! The state at reset (70_reset_and_hazards.md R340), invariant by invariant. -/

namespace Sys2Proof.Machine

theorem regInv_reset : RegInv State.reset :=
  regInv_iff.mpr ⟨.idle (by decide), .idle (by decide), by decide, ⟨by decide, by decide⟩, by decide, by decide⟩

theorem storeInv_reset : StoreInv State.reset := ⟨by decide, by decide, by decide, reset_mem_wf, rfl⟩

theorem hostInv_reset : HostInv State.reset := .of_no_tasks rfl rfl rfl

theorem lifeInv_reset : LifeInv State.reset :=
  .of_parts (fun _ => ⟨rfl, rfl, rfl, rfl, rfl, rfl⟩) rfl (fun _ => ⟨rfl, rfl, rfl⟩) rfl rfl rfl (fun h => absurd h (by decide))
    hostInv_reset (fun _ h => nomatch h)

end Sys2Proof.Machine
end

section
namespace Sys2Proof.Proofs

open Sys2Proof.Machine

/-- Settles O8: an effect leaves FAULT as it is, and a quiet state is stuck or final by whether a task or an interrupt waits
(60_exceptions.md R300, 70_reset_and_hazards.md R356). -/
theorem faultIsTheOnlyEffect : Obligations.FaultIsTheOnlyEffect := by
  refine ⟨fun i s t h hnone hfault => ?_, fun i s t c h hfault => ?_, fun s hfault => ?_, fun s hfinal => ?_,
    fun s i h hi => takeStep_of_quiet h hi, fun s h hs hwf => State.final_or_stuck_of_quiet h hs hwf⟩
  · obtain rfl | ⟨f, _, rfl⟩ | heffect := exec_effect h
    · exact absurd hnone hfault
    · rfl
    · exact absurd (heffect.fault_eq.trans hnone) hfault
  · obtain ⟨hholds, _⟩ := faultStopsEveryAgent
    obtain rfl : s = t := by simpa [hholds i s (by simp [hfault])] using h
    exact hfault
  · have hquiet : s.quiet = false := State.quiet_eq_false_of_fault hfault
    exact ⟨by simp [State.final, hquiet], by simp [State.stuck, hquiet]⟩
  · obtain ⟨_, hpending, hphase, _, _, hholder, hwaiter⟩ := State.final_iff.mp hfinal
    simp [State.stuck, hpending, hphase, hholder, hwaiter]

/-- Settles O59: no agent is active, nothing is stored and no task runs (70_reset_and_hazards.md R340). -/
theorem resetMeetsTheInvariants : Obligations.ResetMeetsTheInvariants :=
  ⟨regInv_reset, storeInv_reset, lifeInv_reset, hostInv_reset, rfl, rfl⟩

end Sys2Proof.Proofs
end
